-- ==== Sys2Proof/Word.lean ====
section
/-!
DEFINITION. The two word sizes of the block: buffer bytes (R60) and 32-bit registers, addresses,
counts and FIFO words (R20, R63).
-/
namespace Sys2Proof

/-- One byte: of buffer memory (R60), of a wire frame (R10), of a FIFO word's lane (R65). -/
abbrev Byte := BitVec 8

/-- One 32-bit quantity: ADDR_W = SIZE_W = 32 (R9), a peripheral register (R63), a FIFO word (R102). -/
abbrev Word := BitVec 32

end Sys2Proof
end

