-- ==== Sys2Proof/Config.lean ====
section
/-!
DEFINITION. The implementation parameters the spec leaves OPEN (R9), the constraints a configuration must meet
(R206, R63), and the free values: constants with no body, of which nothing can be proved.
-/
namespace Sys2Proof

/-- The OPEN parameters of R9. A machine carries its configuration as plain data, so a statement about every
state is a statement about every configuration. -/
structure Config where
  /-- POLL_LIMIT (D6): a number, or `none` for UNBOUNDED. -/
  pollLimit : Option Nat
  /-- TX_DEPTH_W (D17), in words. -/
  txDepth : Nat
  /-- RX_DEPTH_W (D17), in words. -/
  rxDepth : Nat
  /-- SPI_BASE (D45). The spec writes no width for it or for the offsets, so they and their sum are naturals (R10). -/
  spiBase : Nat
  /-- OFF_CTL (D45). -/
  offCtl : Nat
  /-- OFF_STA (D45). -/
  offSta : Nat
  /-- OFF_TXD (D45). -/
  offTxd : Nat
  /-- OFF_RXD (D45). -/
  offRxd : Nat
  /-- EN_BIT (D11), a bit number of CTL. -/
  enBit : Nat
  /-- XCH_MASK (D11): the transfer-trigger bits of CTL. -/
  xchMask : Word
  /-- RFC_MASK (D11): the RX FIFO clear bits of CTL. -/
  rfcMask : Word
  /-- TFC_MASK (D11): the TX FIFO clear bits of CTL. -/
  tfcMask : Word
  /-- RXE_BIT (D10), a bit number of STA. -/
  rxeBit : Nat
  /-- TXF_BIT (D10), a bit number of STA. -/
  txfBit : Nat
  /-- TXE_BIT (D10), a bit number of STA. -/
  txeBit : Nat
  deriving DecidableEq, Repr

/-- CTL bits 23:16, the frame-length field FL (R8, R40). -/
def Config.flMask : Word := 0x00FF0000#32

/-- The mask of the single bit CTL.EN. -/
def Config.enMask (c : Config) : Word := 1#32 <<< c.enBit

/-- POLL_LIMIT is UNBOUNDED, or a number from max(1, RX_DEPTH_W) up to 2^32 - 1 (R9, R186, R206). -/
def Config.wfPoll (c : Config) : Bool :=
  match c.pollLimit with
  | none => true
  | some n => decide (1 ≤ n) && decide (c.rxDepth ≤ n) && decide (n < 2 ^ 32)

/-- Both FIFOs hold at least one whole burst (R44, R206). -/
def Config.wfDepths (c : Config) : Bool :=
  decide (8 ≤ c.txDepth) && decide (8 ≤ c.rxDepth)

/-- XCH_MASK is non-zero and the CTL fields are pairwise disjoint (R206). -/
def Config.wfCtl (c : Config) : Bool :=
  decide (c.xchMask ≠ 0) && decide (c.enBit < 32)
  && decide (c.xchMask &&& c.rfcMask = 0) && decide (c.xchMask &&& c.tfcMask = 0)
  && decide (c.rfcMask &&& c.tfcMask = 0)
  && decide (c.xchMask &&& c.enMask = 0) && decide (c.rfcMask &&& c.enMask = 0)
  && decide (c.tfcMask &&& c.enMask = 0)
  && decide (c.xchMask &&& Config.flMask = 0) && decide (c.rfcMask &&& Config.flMask = 0)
  && decide (c.tfcMask &&& Config.flMask = 0) && decide (c.enMask &&& Config.flMask = 0)

/-- The three STA bits stand at distinct places (R206). -/
def Config.wfSta (c : Config) : Bool :=
  decide (c.rxeBit < 32) && decide (c.txfBit < 32) && decide (c.txeBit < 32)
  && decide (c.rxeBit ≠ c.txfBit) && decide (c.rxeBit ≠ c.txeBit) && decide (c.txfBit ≠ c.txeBit)

/-- SPI_BASE and the offsets are multiples of 4 and the offsets are distinct (R63). -/
def Config.wfMap (c : Config) : Bool :=
  decide (c.spiBase % 4 = 0)
  && decide (c.offCtl % 4 = 0) && decide (c.offSta % 4 = 0)
  && decide (c.offTxd % 4 = 0) && decide (c.offRxd % 4 = 0)
  && decide ([c.offCtl, c.offSta, c.offTxd, c.offRxd].Nodup)

/-- The parameter constraints a configuration must meet (R206, R63). -/
def Config.wf (c : Config) : Bool :=
  c.wfPoll && c.wfDepths && c.wfCtl && c.wfSta && c.wfMap

/-- The example configuration EX of 95_test_vectors.md section 0; the source gives none of these values, and EX
gives no addresses (the ones here are the model's own; assumption 4). -/
def Config.ex : Config where
  pollLimit := none
  txDepth := 8
  rxDepth := 8
  spiBase := 0x0
  offCtl := 0x0
  offSta := 0x4
  offTxd := 0x8
  offRxd := 0xC
  enBit := 0
  xchMask := 0x00000400#32
  rfcMask := 0x00000200#32
  tfcMask := 0x00000100#32
  rxeBit := 0
  txfBit := 1
  txeBit := 2

/-! ## Free values

Applied to the counter `draws` that the machine advances at each draw: every draw is a fresh unknown. -/

/-- Free bytes: what the link partner answers (R46), what a raced or disturbed byte is (R74, R216), and what
`hdr` and `resp` hold after a reset (R200). -/
opaque Config.freeByte : Nat → Byte

/-- Free words: undescribed STA bits (R41), the unspecified bytes of an RX word (R45), a read of TXD (R42). -/
opaque Config.freeWord : Nat → Word

/-- Free numbers: how many bytes the peripheral exchanges before the block's next action (R45, R47), and the
choices the spec leaves unconstrained (R200, R216). -/
opaque Config.freeNat : Nat → Nat

end Sys2Proof
end

