-- ==== Sys2Proof/Syntax.lean ====
section
/-!
DEFINITION. The requests a host can make (R2, R80, R81): one constructor for each of the eight values of the 3-bit
op field, with the two operand fields every request carries.
-/
namespace Sys2Proof

/-- One request. Every request has the one fixed format of R80: `op`, `buf` (32 bits, unsigned) and `size` (32
bits, unsigned). CMD0 and the reserved ops carry the two fields and ignore them (R83, R84). -/
inductive Instr where
  /-- op 000, SEND (R125). -/
  | send (buf size : Word)
  /-- op 001, RECV (R128). -/
  | recv (buf size : Word)
  /-- op 010, CMD0 (R145). -/
  | cmd0 (buf size : Word)
  /-- op 011, CMD53R (R152). -/
  | cmd53r (buf size : Word)
  /-- op 100, CMD53W (R155). -/
  | cmd53w (buf size : Word)
  /-- op 101, reserved, kept for CMD52 (R84). -/
  | rsv5 (buf size : Word)
  /-- op 110, reserved (R84). -/
  | rsv6 (buf size : Word)
  /-- op 111, reserved (R84). -/
  | rsv7 (buf size : Word)
  deriving DecidableEq, Repr

/-- The request's `buf` field. -/
def Instr.buf : Instr → Word
  | .send b _ => b
  | .recv b _ => b
  | .cmd0 b _ => b
  | .cmd53r b _ => b
  | .cmd53w b _ => b
  | .rsv5 b _ => b
  | .rsv6 b _ => b
  | .rsv7 b _ => b

/-- The request's `size` field. -/
def Instr.size : Instr → Word
  | .send _ n => n
  | .recv _ n => n
  | .cmd0 _ n => n
  | .cmd53r _ n => n
  | .cmd53w _ n => n
  | .rsv5 _ n => n
  | .rsv6 _ n => n
  | .rsv7 _ n => n

end Sys2Proof
end

