-- ==== Sys2Proof/WellFormed.lean ====
section
/-!
DEFINITION. When a request is one the block runs (R61, R173): its op is not reserved, and a request that uses its
buffer operands names a buffer that exists. A request that is not well formed is still a request: the block answers
it with ILLEGAL_REQUEST.
-/
namespace Sys2Proof

/-- R84: the op is one of the five operations, not 101, 110 or 111. -/
def Instr.opDefined : Instr → Bool
  | .send _ _ => true
  | .recv _ _ => true
  | .cmd0 _ _ => true
  | .cmd53r _ _ => true
  | .cmd53w _ _ => true
  | .rsv5 _ _ => false
  | .rsv6 _ _ => false
  | .rsv7 _ _ => false

/-- R81, R83: the request reads `buf` and `size`. -/
def Instr.usesBuffer : Instr → Bool
  | .send _ _ => true
  | .recv _ _ => true
  | .cmd0 _ _ => false
  | .cmd53r _ _ => true
  | .cmd53w _ _ => true
  | .rsv5 _ _ => false
  | .rsv6 _ _ => false
  | .rsv7 _ _ => false

/-- R173 case 2: a non-empty buffer is not the null buffer. -/
def Instr.bufferNotNull (i : Instr) : Bool :=
  !i.usesBuffer || decide (i.size = 0) || decide (i.buf ≠ 0)

/-- R173 case 3: the buffer ends at or below 2^32, computed without wrap. -/
def Instr.bufferInSpace (i : Instr) : Bool :=
  !i.usesBuffer || decide (i.size = 0) || decide (i.buf.toNat + i.size.toNat ≤ 2 ^ 32)

/-- The requests the block runs (R61, R173). -/
def Instr.wellFormed (i : Instr) : Bool :=
  i.opDefined && i.bufferNotNull && i.bufferInSpace

end Sys2Proof
end

