-- ==== Sys2Proof/Decode.lean ====
section
/-!
DEFINITION. The request encoding: op codes (R81, R84), the decoder, total on every op value (R82), and the encoder.
The request word lays the three fields of R80 end to end, op in bits 2:0 as the opcode table numbers it, buf in bits
34:3 and size in bits 66:35 (assumption 3).
-/
namespace Sys2Proof

/-- A request on the host port: 3 + 32 + 32 bits (R80). -/
abbrev ReqWord := BitVec 67

/-- Why bits are not a request. -/
inductive DecodeError where
  /-- A bit above bit 66 is set: there is no such bit in the one request format (R80, R86). -/
  | bitsBeyondRequest
  deriving DecidableEq, Repr

/-- R81: the op code of each request. -/
def Instr.op : Instr → BitVec 3
  | .send _ _ => 0b000#3
  | .recv _ _ => 0b001#3
  | .cmd0 _ _ => 0b010#3
  | .cmd53r _ _ => 0b011#3
  | .cmd53w _ _ => 0b100#3
  | .rsv5 _ _ => 0b101#3
  | .rsv6 _ _ => 0b110#3
  | .rsv7 _ _ => 0b111#3

/-- R81, R82: every 3-bit op selects exactly one row. -/
def decodeReq (op : BitVec 3) (buf size : Word) : Instr :=
  match op.toNat with
  | 0 => .send buf size
  | 1 => .recv buf size
  | 2 => .cmd0 buf size
  | 3 => .cmd53r buf size
  | 4 => .cmd53w buf size
  | 5 => .rsv5 buf size
  | 6 => .rsv6 buf size
  | _ => .rsv7 buf size

/-- The op field of a request word. -/
def reqOp (w : ReqWord) : BitVec 3 := w.extractLsb' 0 3

/-- The buf field of a request word. -/
def reqBuf (w : ReqWord) : Word := w.extractLsb' 3 32

/-- The size field of a request word. -/
def reqSize (w : ReqWord) : Word := w.extractLsb' 35 32

/-- Decode a request word. -/
def decode (w : ReqWord) : Instr := decodeReq (reqOp w) (reqBuf w) (reqSize w)

/-- Decode any number read as bits, rejecting bits that no request has. -/
def decodeBits (w : Nat) : Except DecodeError Instr :=
  if w < 2 ^ 67 then .ok (decode (BitVec.ofNat 67 w)) else .error .bitsBeyondRequest

/-- The word of a request: its fields end to end. -/
def encode (i : Instr) : ReqWord := i.size ++ (i.buf ++ i.op)

/-- The host's view of the decoder: `nbits` bits are given and every bit above them is 0. -/
def decodeTableWord (nbits w : Nat) : Option Instr :=
  match decodeBits (w % 2 ^ nbits) with
  | .ok i => some i
  | .error _ => none

/-! ## Request notation (R85) -/

/-- R85: the request's line in the assembler syntax; the reserved ops have no mnemonic there (30_encoding.md). -/
def Instr.asmLine : Instr → Option String
  | .send b n => some ("SEND " ++ toString b.toNat ++ ", " ++ toString n.toNat)
  | .recv b n => some ("RECV " ++ toString b.toNat ++ ", " ++ toString n.toNat)
  | .cmd0 _ _ => some "CMD0"
  | .cmd53r b n => some ("CMD53R " ++ toString b.toNat ++ ", " ++ toString n.toNat)
  | .cmd53w b n => some ("CMD53W " ++ toString b.toNat ++ ", " ++ toString n.toNat)
  | .rsv5 _ _ => none
  | .rsv6 _ _ => none
  | .rsv7 _ _ => none

end Sys2Proof
end

