-- ==== Sys2Proof/Machine/State.lean ====
section
/-!
DEFINITION. Everything the spec gives the machine, as plain data: the block's registers and sequencer (R20, R21, R22),
the context flags (R30), the SPI peripheral the block drives (R40 to R48), buffer memory (R60), the interrupt and GPIO
collaborators at their boundary (R181, R182), the inputs from outside (R46, R47, R185), and the observation (R18).
-/
namespace Sys2Proof.Machine

/-- w_dir (R20): 0 send, 1 receive. -/
inductive Dir where
  | send
  | receive
  deriving DecidableEq, Repr

/-- w_src (R20, R24): where the bytes of a WTE call live. -/
inductive WSrc where
  | buf
  | hdr
  | trl
  | cmd0f
  | resp
  deriving DecidableEq, Repr

/-- The `cfl` half of the sequencer state (R21). -/
inductive Cfl where
  | idle
  | check
  | sendTop
  | recvTop
  | c0Send
  | c0Recv
  | c0Eval
  | c53Top
  | c53Hdr
  | c53Pay
  | c53Trl
  | c53Next
  | finish
  deriving DecidableEq, Repr

/-- The `wte` half of the sequencer state (R21). -/
inductive Wte where
  | none
  | top
  | b1TrigOff
  | b2Drain
  | b3Txe
  | b4Fl
  | b5Words
  | b6TrigOn
  | b7Rx
  | next
  deriving DecidableEq, Repr

/-- Which primitive action of a `wte` state comes next (R17: one access at a time). The spec's pseudocode says it by
the order of its lines; the model's own register holds it (assumption 27). -/
inductive Phase where
  /-- The state's first access: the CTL read, or the STA poll. -/
  | start
  /-- The k-th byte of the current FIFO word (B5 reads it, B7 stores it). -/
  | byte (k : Fin 4)
  /-- The state's closing access: the CTL write, the TXD write, or the RXD read. -/
  | last
  /-- The poll just made has used up the budget: `raise DEVICE_NOT_RESPONDING` comes next (R112, R115). -/
  | giveUp
  deriving DecidableEq, Repr

/-- Completion status (R171). -/
inductive Status where
  | ok
  | protocolMismatch
  | deviceNotResponding
  | illegalRequest
  deriving DecidableEq, Repr

/-- The two-bit code of a status (R22, R171). -/
def Status.code : Status → BitVec 2
  | .ok => 0#2
  | .protocolMismatch => 1#2
  | .deviceNotResponding => 2#2
  | .illegalRequest => 3#2

/-- The block's own registers (R20), sequencer (R21) and status (R22). `busy` is the view `cfl ≠ idle` (R22). -/
structure Block where
  /-- op, 3 bits. -/
  op : BitVec 3
  /-- buf, 32 bits. -/
  buf : Word
  /-- size, 32 bits. -/
  size : Word
  /-- cur, 32 bits: CMD53 payload bytes already moved. -/
  cur : Word
  /-- rem, 32 bits: CMD53 payload bytes still to move. -/
  rem : Word
  /-- chunk, 9 bits: length of the current chunk. -/
  chunk : BitVec 9
  /-- hdr, 14 x 8 bits: the staged command header. -/
  hdr : Vector Byte 14
  /-- resp, 8 bits: the CMD0 response byte. -/
  resp : Byte
  /-- w_dir, 1 bit. -/
  wDir : Dir
  /-- w_src, 3 bits. -/
  wSrc : WSrc
  /-- w_base, 32 bits. -/
  wBase : Word
  /-- w_size, 32 bits. -/
  wSize : Word
  /-- w_off, 32 bits: bytes of the call already completed. -/
  wOff : Word
  /-- blen, 6 bits: length of the current burst. -/
  blen : BitVec 6
  /-- wj, 4 bits: word index inside the burst. -/
  wj : BitVec 4
  /-- polls, 32 bits (R186). -/
  polls : Word
  /-- cfl (R21). -/
  cfl : Cfl
  /-- wte (R21). -/
  wte : Wte
  /-- status, 2 bits (R22). -/
  status : Status
  /-- The model's own: the next primitive action of the `wte` state. -/
  phase : Phase
  /-- The model's own: the pseudocode's local 32-bit value (the CTL value read, the TX word being packed, the RX word
  being stored). -/
  latch : Word
  deriving DecidableEq, Repr

/-- The per-instance context flags (R30). -/
structure Ctx where
  ready : Bool
  csForcedHigh : Bool
  deriving DecidableEq, Repr

/-- A frame in progress (R45). `word` and `rx` are loaded at the first byte of each FIFO word. -/
structure Frame where
  /-- n: the wire bytes of the frame. -/
  n : Nat
  /-- i: the wire bytes already exchanged. -/
  i : Nat
  /-- t: the TX word being shifted out. -/
  word : Word
  /-- a: the RX assembly word. -/
  rx : Word
  deriving DecidableEq, Repr

/-- The SPI peripheral (R40 to R48). STA is a view of the FIFOs (R41). -/
structure Periph where
  /-- CTL, 32 bits (R40). -/
  ctl : Word
  /-- TX FIFO words, head first (R44). -/
  tx : List Word
  /-- RX FIFO words, head first (R44). -/
  rx : List Word
  /-- The frame in progress (R45, R48). -/
  frame : Option Frame
  /-- The model's own: the peripheral was not idle when a request that moves bytes was accepted, or a frame was still
  running when CTL.XCH was written 0, so that wire and received bytes are any value until such a request is accepted with
  the peripheral idle (R216, assumption 16). -/
  disturbed : Bool
  deriving DecidableEq, Repr

/-- The interrupt collaborator (R181). -/
structure Irq where
  enabled : Bool
  pending : Bool
  deriving DecidableEq, Repr

/-- One GPIO line (R182). -/
structure GpioLine where
  /-- dir: true when the line is an output. -/
  output : Bool
  level : Bool
  deriving DecidableEq, Repr

/-- The GPIO collaborator's three lines (R182). -/
structure Gpio where
  resetD : GpioLine
  resetA : GpioLine
  power : GpioLine
  deriving DecidableEq, Repr

/-- The peripheral's four registers (R63). -/
inductive MmioReg where
  | ctl
  | sta
  | txd
  | rxd
  deriving DecidableEq, Repr

/-- gpio op (R182), in the order of R183. -/
inductive GpioOp where
  | disable
  | enable
  | high
  | low
  deriving DecidableEq, Repr

/-- gpio id (R182), in the order of R183. -/
inductive GpioId where
  | resetD
  | resetA
  | power
  deriving DecidableEq, Repr

/-- interrupt op (R181), in the order of R183. -/
inductive IrqOp where
  | enable
  | disable
  | acknowledge
  | status
  deriving DecidableEq, Repr

/-- A move of an agent outside the block, made while the block is idle (R185). -/
inductive HostMove where
  /-- Strobe the request port (R50). -/
  | request (w : ReqWord)
  /-- Write `ctx.ready` (R32). -/
  | setReady (v : Bool)
  /-- Write `ctx.cs_forced_high` (R32). -/
  | setCsForced (v : Bool)
  /-- Write a byte of buffer memory (R185: the host owns the buffer). -/
  | bufWrite (a : Word) (v : Byte)
  /-- Read the peripheral register at an address (R205). -/
  | mmioRead (a : Nat)
  /-- Write the peripheral register at an address (R205). -/
  | mmioWrite (a : Nat) (v : Word)
  /-- Operate the interrupt collaborator (R181). -/
  | irq (op : IrqOp)
  /-- The link partner raises the chip-ready line (R180, R181). -/
  | chipReady
  /-- Operate a GPIO line (R182). -/
  | gpio (op : GpioOp) (id : GpioId)
  /-- Assert the block's reset (R185, R200). -/
  | reset
  deriving DecidableEq, Repr

/-- An input stream as plain data: the values listed, then `rest` for ever, or free values when `rest` is `none`
(assumption 9). -/
structure Tape (α : Type) where
  items : List α
  rest : Option α
  deriving DecidableEq, Repr

/-- The inputs of the machine: what other agents do to it. -/
structure Env where
  /-- The moves made while the block is idle, oldest first. -/
  inbox : List HostMove
  /-- The bytes the link partner answers, in wire order (R46). -/
  answers : Tape Byte
  /-- Before each action of the block while a frame runs: how many bytes the peripheral exchanges (R45, R47). -/
  sched : Tape Nat
  /-- The undescribed STA bits at each read (R41). -/
  staOther : Tape Word
  /-- The unspecified RX assembly word at the start of each FIFO word (R45). -/
  rxPad : Tape Word
  /-- The resets the host asserts while requests run (R185): how many actions of the block come before the first one,
  and how many come after each before the next. -/
  resets : List Nat
  /-- Another agent accesses the Transfer Buffer while a request runs (R74). -/
  race : Bool
  /-- The model's own: how many draws have been made. -/
  draws : Nat
  deriving DecidableEq, Repr

/-- One observable event (R17, R18). -/
inductive Event where
  /-- A 32-bit read of a peripheral register (R63). -/
  | mmioRead (r : MmioReg) (v : Word)
  /-- A 32-bit write of a peripheral register (R63). -/
  | mmioWrite (r : MmioReg) (v : Word)
  /-- One byte out and one byte in on the SPI link (R45). -/
  | wire (out inn : Byte)
  /-- A byte read of buffer memory by the block (R60). -/
  | memRead (a : Nat) (v : Byte)
  /-- A byte write of buffer memory by the block (R60). -/
  | memWrite (a : Nat) (v : Byte)
  /-- The completion strobe, with `status` valid (R50). -/
  | complete (st : Status)
  /-- What the interrupt collaborator's STATUS operation returned (R181). -/
  | irqStatus (pending : Bool)
  deriving DecidableEq, Repr

/-- Buffer memory: cells in rising address order, none holding what an unlisted address reads as. -/
abbrev Memory := List Host.Cell

/-- Why the machine stops. -/
inductive Fault where
  /-- Raised by a buffer access at an address of 2^32 or more, which does not exist (R60). The block forms no such
  address (R61). Safe. -/
  | addressOutside (a : Nat)
  /-- Raised by a WTE byte access that R24 calls not used, or past the end of its constant. The block makes none.
  Safe. -/
  | byteSourceUnused
  /-- Raised by a TXD write when the TX FIFO is full; its effect is unspecified (R42) and a model that reaches one
  records a fault (93_implementation_defined.md). The block makes none. Safe. -/
  | txOverrun
  /-- Raised by an RXD read when the RX FIFO is empty (R43) and a model that reaches one records a fault
  (93_implementation_defined.md). The block makes none. Safe. -/
  | rxUnderrun
  /-- Raised by a frame that appends a word to a full RX FIFO; a model that reaches it records a fault
  (93_implementation_defined.md). Safe. -/
  | rxOverrun
  /-- Raised by a host write to RXD, whose effect no rule gives (R43). Safe. -/
  | rxdWritten
  /-- Raised by a host MMIO access to an address that is none of the four registers (R63). Safe. -/
  | mmioUnmapped (a : Nat)
  deriving DecidableEq, Repr

/-- Why the machine has no meaning for an instruction. -/
inductive Refusal where
  /-- Raised by `exec` for a request whose meaning is not written. Safe. -/
  | notModelled (mnemonic : String)
  deriving DecidableEq, Repr

/-- The machine. -/
structure State where
  /-- The open parameters (R9), which nothing changes. -/
  cfg : Config
  block : Block
  ctx : Ctx
  periph : Periph
  mem : Memory
  irq : Irq
  gpio : Gpio
  env : Env
  /-- The observation so far, oldest first (R18). -/
  trace : List Event
  deriving DecidableEq, Repr

/-- An outcome carrying a value or a state. -/
abbrev Res (α : Type) := Host.Outcome α Fault Refusal

/-- R22: `busy` equals `cfl != IDLE`. -/
def State.busy (s : State) : Bool := decide (s.block.cfl ≠ .idle)

/-! ## Named updates -/

/-- Replace the block's registers. -/
def State.withBlock (s : State) (b : Block) : State := { s with block := b }

/-- Replace the context flags. -/
def State.withCtx (s : State) (c : Ctx) : State := { s with ctx := c }

/-- Replace the peripheral. -/
def State.withPeriph (s : State) (p : Periph) : State := { s with periph := p }

/-- Replace buffer memory. -/
def State.withMem (s : State) (m : Memory) : State := { s with mem := m }

/-- Replace the interrupt collaborator. -/
def State.withIrq (s : State) (q : Irq) : State := { s with irq := q }

/-- Replace the GPIO lines. -/
def State.withGpio (s : State) (g : Gpio) : State := { s with gpio := g }

/-- Replace the inputs. -/
def State.withEnv (s : State) (e : Env) : State := { s with env := e }

/-- Add one event to the observation. -/
def State.log (s : State) (e : Event) : State := { s with trace := s.trace ++ [e] }

/-! ## Reset -/

/-- The block's registers after reset (R20, R21, R22). `hdr`, `resp` and `w_src` are unspecified there: zero, zero
and BUF are the model's own (assumption 5). -/
def Block.reset : Block where
  op := 0
  buf := 0
  size := 0
  cur := 0
  rem := 0
  chunk := 0
  hdr := #v[0, 0, 0, 0, 0, 0, 0, 0, 0, 0, 0, 0, 0, 0]
  resp := 0
  wDir := .send
  wSrc := .buf
  wBase := 0
  wSize := 0
  wOff := 0
  blen := 0
  wj := 0
  polls := 0
  cfl := .idle
  wte := .none
  status := .ok
  phase := .start
  latch := 0

/-- The context flags after reset (R31). -/
def Ctx.reset : Ctx := ⟨false, false⟩

/-- The peripheral at power-up, which R201 leaves unspecified: the spec's start state S0 of 95_test_vectors.md
(assumption 6). -/
def Periph.powerUp : Periph where
  ctl := 0x00000001#32
  tx := []
  rx := []
  frame := none
  disturbed := false

/-- The interrupt collaborator after power-up: both bits 0 (R181, R201). -/
def Irq.powerUp : Irq := ⟨false, false⟩

/-- The GPIO lines at power-up, which R182 leaves unspecified (assumption 7). -/
def Gpio.powerUp : Gpio := ⟨⟨false, false⟩, ⟨false, false⟩, ⟨false, false⟩⟩

/-- The inputs at power-up: no host move yet, a link partner whose every answer is free, the interleaving I0 of
95_test_vectors.md (assumption 9). -/
def Env.powerUp : Env where
  inbox := []
  answers := ⟨[], none⟩
  sched := ⟨[], some 256⟩
  staOther := ⟨[], some 0⟩
  rxPad := ⟨[], none⟩
  resets := []
  race := false
  draws := 0

/-- The machine right after power-up and reset (R200, R201). -/
def State.reset : State where
  cfg := Config.ex
  block := Block.reset
  ctx := Ctx.reset
  periph := Periph.powerUp
  mem := []
  irq := Irq.powerUp
  gpio := Gpio.powerUp
  env := Env.powerUp
  trace := []

end Sys2Proof.Machine
end

