-- ==== Sys2Proof/Machine/Ops.lean ====
section
/-!
DEFINITION. The shared operations: sequencing of outcomes, free draws, buffer memory (R60, R69), ending a request
(R170, the block's one form of taking an error), acceptance of a request (R50), and the block's reset (R200).
-/
namespace Sys2Proof.Machine

/-- Go on with `f` when `o` is a next state; a fault or a refusal stops. -/
def andThen {α β : Type} (o : Res α) (f : α → Res β) : Res β :=
  match o with
  | .next a => f a
  | .fault r => .fault r
  | .refused r => .refused r

/-! ## Draws -/

/-- Take the next value of a tape; `free` is the unknown used when the tape says nothing. -/
def Tape.draw {α : Type} (t : Tape α) (free : α) : α × Tape α :=
  match t.items with
  | v :: l => (v, { t with items := l })
  | [] => (t.rest.getD free, t)

/-- Count one draw. -/
def Env.tick (e : Env) : Env := { e with draws := e.draws + 1 }

/-- A byte nothing constrains. -/
def drawByte (s : State) : Byte × State :=
  (Config.freeByte s.env.draws, s.withEnv s.env.tick)

/-- A word nothing constrains. -/
def drawWord (s : State) : Word × State :=
  (Config.freeWord s.env.draws, s.withEnv s.env.tick)

/-- A number nothing constrains. -/
def drawNat (s : State) : Nat × State :=
  (Config.freeNat s.env.draws, s.withEnv s.env.tick)

/-- The byte the link partner answers (R46). -/
def drawAnswer (s : State) : Byte × State :=
  let d := s.env.answers.draw (Config.freeByte s.env.draws)
  (d.1, s.withEnv { s.env.tick with answers := d.2 })

/-- How many bytes the peripheral exchanges before the block's next action (R45, R47). -/
def drawSched (s : State) : Nat × State :=
  let d := s.env.sched.draw (Config.freeNat s.env.draws)
  (d.1, s.withEnv { s.env.tick with sched := d.2 })

/-- The bits of an STA value that the source does not describe (R41). -/
def drawStaOther (s : State) : Word × State :=
  let d := s.env.staOther.draw (Config.freeWord s.env.draws)
  (d.1, s.withEnv { s.env.tick with staOther := d.2 })

/-- The unspecified RX assembly word (R45: `a <- unspecified`). -/
def drawPad (s : State) : Word × State :=
  let d := s.env.rxPad.draw (Config.freeWord s.env.draws)
  (d.1, s.withEnv { s.env.tick with rxPad := d.2 })

/-! ## Buffer memory -/

/-- What an address that memory does not list reads as (assumption 8). -/
def Memory.unlisted : Byte := 0

/-- The byte at an address. -/
def Memory.read : Memory → Nat → Byte
  | [], _ => Memory.unlisted
  | c :: rest, a => if c.1 = a then c.2 else Memory.read rest a

/-- Set the byte at an address, keeping the canonical form. -/
def Memory.write : Memory → Nat → Byte → Memory
  | [], a, v => if v = Memory.unlisted then [] else [(a, v)]
  | c :: rest, a, v =>
    if a < c.1 then (if v = Memory.unlisted then c :: rest else (a, v) :: c :: rest)
    else if a = c.1 then (if v = Memory.unlisted then rest else (a, v) :: rest)
    else c :: Memory.write rest a v

/-- The canonical form: addresses strictly rising and inside the 2^32 bytes of R60, no cell equal to what an
unlisted address reads as. -/
def Memory.wf : Memory → Bool
  | [] => true
  | c :: rest =>
    decide (c.1 < 2 ^ 32) && decide (c.2 ≠ Memory.unlisted)
    && rest.all (fun d => decide (c.1 < d.1)) && Memory.wf rest

/-- The block's `MemRead(a, 1)` (R60). While another agent accesses the buffer the byte is any value (R74). -/
def memRead (a : Nat) (s : State) : Res (Byte × State) :=
  if 2 ^ 32 ≤ a then .fault (.addressOutside a)
  else if s.env.race then
    let d := drawByte s
    .next (d.1, d.2.log (.memRead a d.1))
  else .next (s.mem.read a, s.log (.memRead a (s.mem.read a)))

/-- The block's `MemWrite(a, 1, v)` (R60). -/
def memWrite (a : Nat) (v : Byte) (s : State) : Res State :=
  if 2 ^ 32 ≤ a then .fault (.addressOutside a)
  else .next ((s.withMem (s.mem.write a v)).log (.memWrite a v))

/-! ## Ending a request: the block's one form of taking an error -/

/-- R170: `done(st)` and `raise st`. The status is recorded, the sequencer goes to (IDLE, W_NONE), busy falls with
it, and the completion strobe is given; nothing else changes. -/
def endRequest (st : Status) (s : State) : State :=
  (s.withBlock { s.block with status := st, cfl := .idle, wte := .none }).log (.complete st)

/-! ## Accepting a request -/

/-- The peripheral is as R216 asks before a request: no frame running and the TX FIFO empty. -/
def periphSettled (p : Periph) : Bool := p.frame.isNone && p.tx.isEmpty

/-- What a frame that still runs has assembled of its RX word becomes any value (R216). -/
def forgetAssembly (s : State) : State :=
  match s.periph.frame with
  | none => s
  | some f =>
    let d := drawWord s
    d.2.withPeriph { d.2.periph with frame := some { f with rx := d.1 } }

/-- When the host has not brought the peripheral back to idle, every byte on the link and every byte received is any
value from here on (R216, assumption 16). -/
def unsettle (s : State) : State :=
  let u := forgetAssembly s
  u.withPeriph { u.periph with disturbed := !periphSettled s.periph }

/-- The request moves bytes over the link: the block runs it, and it has bytes to move. One that ends ILLEGAL_REQUEST
or has size 0 leaves the peripheral as it is (R176, R111). -/
def movesBytes (i : Instr) : Bool := i.wellFormed && (!i.usesBuffer || decide (i.size ≠ 0))

/-- R50: copy the three fields and enter (CHECK, W_NONE). -/
def accept (op : BitVec 3) (buf size : Word) (s : State) : State :=
  let u := if movesBytes (decodeReq op buf size) then unsettle s else s
  u.withBlock { u.block with op := op, buf := buf, size := size, cfl := .check, wte := .none }

/-! ## Reset of the block -/

/-- A free choice among the values of w_src. -/
def chooseWSrc (n : Nat) : WSrc :=
  match n % 5 with
  | 0 => .buf
  | 1 => .hdr
  | 2 => .trl
  | 3 => .cmd0f
  | _ => .resp

/-- R200: the block's registers and context flags take their reset values; `hdr`, `resp` and `w_src` are
unspecified, so they are free. Peripheral, buffer memory, interrupt and GPIO collaborators keep their state (R201). A
request in progress is abandoned with no completion strobe. -/
def blockReset (s : State) : State :=
  let n := s.env.draws
  let f := fun k => Config.freeByte (n + k)
  ((s.withBlock { Block.reset with
      hdr := #v[f 0, f 1, f 2, f 3, f 4, f 5, f 6, f 7, f 8, f 9, f 10, f 11, f 12, f 13],
      resp := f 14,
      wSrc := chooseWSrc (Config.freeNat (n + 15)) }).withCtx Ctx.reset).withEnv
    { s.env with draws := n + 16 }

end Sys2Proof.Machine
end

