-- ==== Sys2Proof/Machine/Flags.lean ====
section
/-!
DEFINITION. The status bits and the control fields: the value of STA from the FIFOs (R41) and its decoding (R101),
the value CTL reads as (R40), and the values the block writes to CTL (R99, R100). The block has no other flags (R54).
-/
namespace Sys2Proof.Machine

/-! ## STA -/

/-- A single bit, set or not, at a place of STA. -/
def staBit (place : Nat) (on : Bool) : Word := if on then 1#32 <<< place else 0#32

/-- The three described bits of STA. -/
def staMask (c : Config) : Word :=
  staBit c.rxeBit true ||| staBit c.txfBit true ||| staBit c.txeBit true

/-- RXE: the RX FIFO holds no word (R41). -/
def rxEmpty (p : Periph) : Bool := p.rx.isEmpty

/-- TXE: the TX FIFO holds no word (R41). -/
def txEmpty (p : Periph) : Bool := p.tx.isEmpty

/-- TXF: the TX FIFO holds TX_DEPTH_W words (R41). -/
def txFull (c : Config) (p : Periph) : Bool := decide (c.txDepth ≤ p.tx.length)

/-- RX FIFO full: it holds RX_DEPTH_W words (R44). -/
def rxFull (c : Config) (p : Periph) : Bool := decide (c.rxDepth ≤ p.rx.length)

/-- The value STA reads as (R41): the three bits at their places, `other` in the bits the source does not
describe. -/
def staValue (c : Config) (p : Periph) (other : Word) : Word :=
  (other &&& ~~~staMask c) ||| staBit c.rxeBit (rxEmpty p) ||| staBit c.txfBit (txFull c p)
    ||| staBit c.txeBit (txEmpty p)

/-- Which bit of STA a wait tests (R112). -/
inductive StaTest where
  /-- B3: TXE = 1. -/
  | txe
  /-- B5: TXF = 0. -/
  | notTxf
  /-- B7: RXE = 0. -/
  | notRxe
  deriving DecidableEq, Repr

/-- The test of a value read from STA (R101). -/
def StaTest.holds (c : Config) (t : StaTest) (st : Word) : Bool :=
  match t with
  | .txe => st.getLsbD c.txeBit
  | .notTxf => !st.getLsbD c.txfBit
  | .notRxe => !st.getLsbD c.rxeBit

/-! ## CTL -/

/-- The FIFO-clear bits of CTL. -/
def clearMask (c : Config) : Word := c.rfcMask ||| c.tfcMask

/-- What CTL reads as: its FIFO-clear bits read as 0 (R40). -/
def ctlValue (c : Config) (p : Periph) : Word := p.ctl &&& ~~~clearMask c

/-- CTL with XCH cleared and every other bit as it was (R100, R114). -/
def ctlTrigOff (c : Config) (ctl : Word) : Word := ctl &&& ~~~c.xchMask

/-- CTL with XCH set and every other bit as it was (R100, R118). -/
def ctlTrigOn (c : Config) (ctl : Word) : Word := ctl ||| c.xchMask

/-- CTL with FL = blen - 1 and every other bit as it was (R99, R116). -/
def ctlFrameLen (ctl : Word) (blen : BitVec 6) : Word :=
  (ctl &&& ~~~Config.flMask) ||| ((blen - 1#6).setWidth 32 <<< 16)

/-- CTL.FL, bits 23:16 (R40). -/
def ctlFl (ctl : Word) : BitVec 8 := ctl.extractLsb' 16 8

end Sys2Proof.Machine
end

