-- ==== Sys2Proof/Machine/Operands.lean ====
section
/-!
DEFINITION. Where the bytes of a transfer come from and go to: the lanes of a FIFO word (R65, R102), the frame
constants (R23, R90 to R95), the header of a chunk (R93, R98), the byte source and destination of a WTE call (R24),
and the burst and chunk lengths (R111, R150).
-/
namespace Sys2Proof.Machine

/-! ## Lanes -/

/-- Byte k of a FIFO word: bits 8k+7 to 8k (R11, R65). -/
def byteOf (w : Word) (k : Nat) : Byte := w.extractLsb' (8 * k) 8

/-- The word with byte k replaced. -/
def setByte (w : Word) (k : Nat) (b : Byte) : Word :=
  (w &&& ~~~(0xFF#32 <<< (8 * k))) ||| (b.setWidth 32 <<< (8 * k))

/-! ## Constants -/

/-- BURST_MAX (R8). -/
def burstMax : Nat := 32

/-- CHUNK_MAX (R8). -/
def chunkMax : Nat := 511

/-- CMD0_LEN (R8). -/
def cmd0Len : Nat := 8

/-- CMD0_RESP_LEN (R8). -/
def cmd0RespLen : Nat := 1

/-- HDR_LEN (R8). -/
def hdrLen : Nat := 14

/-- TRL_LEN (R8). -/
def trlLen : Nat := 4

/-- DUMMY_WORD (R8, R102). -/
def dummyWord : Word := 0xFFFFFFFF#32

/-- The CMD0 frame (R90). -/
def cmd0Frame : List Byte := [0xFF, 0x40, 0x00, 0x00, 0x00, 0x00, 0x95, 0xFF]

/-- The CMD53 trailers (R94 read, R95 write). -/
def trailer (read : Bool) : List Byte :=
  if read then [0xFF, 0xFF, 0xFF, 0xFF] else [0x00, 0x00, 0xFF, 0xFF]

/-! ## The header -/

/-- sizeHi of a chunk length (R93): `(L & 511) >> 8`. -/
def sizeHi (chunk : BitVec 9) : Byte := ((chunk &&& 511#9) >>> 8).setWidth 8

/-- sizeLo of a chunk length (R93): `L & 0xFF`. -/
def sizeLo (chunk : BitVec 9) : Byte := (chunk &&& 0xFF#9).setWidth 8

/-- The header of a chunk: the template of the direction (R92) with the size field overwritten (R98). -/
def header (read : Bool) (chunk : BitVec 9) : Vector Byte 14 :=
  #v[0xFF, 0xFF, 0xFF, 0x75, if read then 0x10 else 0x90, 0x00, sizeHi chunk, sizeLo chunk,
    0x01, 0xFF, 0xFF, 0xFF, 0xFF, if read then 0xFF else 0xFE]

/-- The direction of the CMD53 request in progress: read for CMD53R. -/
def isRead (b : Block) : Bool := decide (b.op = 0b011#3)

/-! ## Lengths -/

/-- Length of the next burst (R111): `min(w_size - w_off, 32)`. -/
def burstLen (b : Block) : BitVec 6 :=
  BitVec.ofNat 6 (min (b.wSize.toNat - b.wOff.toNat) burstMax)

/-- nw = ceil(blen / 4) (R113). -/
def burstWords (b : Block) : Nat := (b.blen.toNat + 3) / 4

/-- Length of the next chunk (R150): `min(rem, 511)`. -/
def chunkLen (b : Block) : BitVec 9 := BitVec.ofNat 9 (min b.rem.toNat chunkMax)

/-- Position in the burst of byte k of word wj: `4wj + k`. -/
def burstPos (b : Block) (k : Nat) : Nat := 4 * b.wj.toNat + k

/-! ## Byte source and destination of a WTE call -/

/-- A byte of a constant or staged store, which R24 uses only inside its length. -/
def storeByteAt (o : Option Byte) (s : State) : Res (Byte × State) :=
  match o with
  | some v => .next (v, s)
  | none => .fault .byteSourceUnused

/-- `src_byte(i)` (R24). -/
def srcByte (i : Nat) (s : State) : Res (Byte × State) :=
  match s.block.wSrc with
  | .buf => memRead (s.block.wBase.toNat + i) s
  | .hdr => storeByteAt s.block.hdr.toList[i]? s
  | .trl => storeByteAt (trailer (isRead s.block))[i]? s
  | .cmd0f => storeByteAt cmd0Frame[i]? s
  | .resp => .fault .byteSourceUnused

/-- `dst(i) <- v` (R24). -/
def dstByte (i : Nat) (v : Byte) (s : State) : Res State :=
  match s.block.wSrc with
  | .buf => memWrite (s.block.wBase.toNat + i) v s
  | .resp => if i = 0 then .next (s.withBlock { s.block with resp := v }) else .fault .byteSourceUnused
  | .hdr => .fault .byteSourceUnused
  | .trl => .fault .byteSourceUnused
  | .cmd0f => .fault .byteSourceUnused

end Sys2Proof.Machine
end

