-- ==== Sys2Proof/Machine/Periph.lean ====
section
/-!
DEFINITION. The SPI peripheral as an agent of its own (R45 to R48) and its four registers as the block and the host
reach them (R40 to R43, R63, R70).
-/
namespace Sys2Proof.Machine

/-! ## The frame -/

/-- The bytes exchanged at one position of a frame. While the peripheral is disturbed both are any value (R216). -/
def exchange (out : Byte) (s : State) : (Byte × Byte) × State :=
  if s.periph.disturbed then
    let o := drawByte s
    let r := drawByte o.2
    ((o.1, r.1), r.2)
  else
    let r := drawAnswer s
    ((out, r.1), r.2)

/-- The end of a FIFO word of a frame: the TX head is removed and the assembled RX word appended (R45). The word removed
is whatever heads the TX FIFO then, and none when a TFC write has emptied it inside the word: the spec does not say, and
this is the model's choice (assumption 31). -/
def frameWordDone (a : Word) (s : State) : Res State :=
  if rxFull s.cfg s.periph then .fault .rxOverrun
  else .next (s.withPeriph { s.periph with tx := s.periph.tx.tail, rx := s.periph.rx ++ [a] })

/-- Set the frame in progress. -/
def setFrame (f : Option Frame) (s : State) : State := s.withPeriph { s.periph with frame := f }

/-- One byte of a frame whose words `t` and `a` are loaded (R45). -/
def frameExchange (f : Frame) (s : State) : Res State :=
  let k := f.i % 4
  let x := exchange (byteOf f.word k) s
  let a := setByte f.rx k x.1.2
  let s1 := x.2.log (.wire x.1.1 x.1.2)
  if f.i + 1 = f.n then andThen (frameWordDone a s1) fun s2 => .next (setFrame none s2)
  else if k = 3 then
    andThen (frameWordDone a s1) fun s2 => .next (setFrame (some { f with i := f.i + 1, rx := a }) s2)
  else .next (setFrame (some { f with i := f.i + 1, rx := a }) s1)

/-- One step of the peripheral on its frame (R45). At the first byte of a word it takes the TX head, or holds while
the TX FIFO is empty; the assembly word is then unspecified. -/
def frameByte (f : Frame) (s : State) : Res State :=
  if f.i % 4 = 0 then
    match s.periph.tx with
    | [] => .next s
    | t :: _ =>
      let p := drawPad s
      frameExchange { f with word := t, rx := p.1 } p.2
  else frameExchange f s

/-- Up to k steps of the peripheral; it rests when no frame is in progress. -/
def periphRun : Nat → State → Res State
  | 0, s => .next s
  | k + 1, s =>
    match s.periph.frame with
    | none => .next s
    | some f => andThen (frameByte f s) (periphRun k)

/-- The peripheral's share before the block's next action: any number of steps (R45, R47). -/
def breathe (s : State) : Res State :=
  match s.periph.frame with
  | none => .next s
  | some _ =>
    let d := drawSched s
    periphRun d.1 d.2

/-! ## The registers -/

/-- The address of a register (R63), an unbounded natural (R10). -/
def mmioAddr (c : Config) : MmioReg → Nat
  | .ctl => c.spiBase + c.offCtl
  | .sta => c.spiBase + c.offSta
  | .txd => c.spiBase + c.offTxd
  | .rxd => c.spiBase + c.offRxd

/-- The register at an address (R63). -/
def mmioRegAt (c : Config) (a : Nat) : Option MmioReg :=
  [MmioReg.ctl, MmioReg.sta, MmioReg.txd, MmioReg.rxd].find? fun r => decide (mmioAddr c r = a)

/-- `MmioRead(OFF_CTL)`: no side effect (R70). -/
def readCtl (s : State) : Word × State :=
  (ctlValue s.cfg s.periph, s.log (.mmioRead .ctl (ctlValue s.cfg s.periph)))

/-- `MmioRead(OFF_STA)`: no side effect on the peripheral (R41, R70). -/
def readSta (s : State) : Word × State :=
  let d := drawStaOther s
  (staValue s.cfg s.periph d.1, d.2.log (.mmioRead .sta (staValue s.cfg s.periph d.1)))

/-- `MmioRead(OFF_RXD)`: the head RX word, removed (R43). -/
def readRxd (s : State) : Res (Word × State) :=
  match s.periph.rx with
  | [] => .fault .rxUnderrun
  | w :: rest => .next (w, (s.withPeriph { s.periph with rx := rest }).log (.mmioRead .rxd w))

/-- `MmioRead(OFF_TXD)`: its value is unspecified (R42). -/
def readTxd (s : State) : Word × State :=
  let d := drawWord s
  (d.1, d.2.log (.mmioRead .txd d.1))

/-- `MmioWrite(OFF_TXD, v)`: append to the TX FIFO (R42). -/
def writeTxd (v : Word) (s : State) : Res State :=
  if txFull s.cfg s.periph then .fault .txOverrun
  else .next ((s.withPeriph { s.periph with tx := s.periph.tx ++ [v] }).log (.mmioWrite .txd v))

/-- A FIFO-clear field acts when it is written all ones (R40). -/
def clears (mask v : Word) : Bool := decide (mask ≠ 0) && decide (v &&& mask = mask)

/-- A CTL write that leaves XCH = 0 while a frame runs: no source says what the frame does, so it may be dropped or
go on, and every byte it exchanges from here on is any value (R216). -/
def disturb (s : State) : State :=
  let d := drawNat s
  d.2.withPeriph { d.2.periph with
    disturbed := true
    frame := if d.1 = 0 then none else d.2.periph.frame }

/-- Set CTL as a write of v does: the FIFO-clear bits act and read as 0 (R40). -/
def storeCtl (v : Word) (s : State) : State :=
  s.withPeriph { s.periph with
    ctl := v &&& ~~~clearMask s.cfg
    rx := if clears s.cfg.rfcMask v then [] else s.periph.rx
    tx := if clears s.cfg.tfcMask v then [] else s.periph.tx }

/-- The frame a write of v to CTL starts: FL + 1 bytes (R45). -/
def newFrame (v : Word) : Frame := ⟨(ctlFl v).toNat + 1, 0, 0, 0⟩

/-- The effect of a CTL write on the peripheral: it sets CTL, and it starts a frame when XCH goes from 0 to
XCH_MASK (R45, R70). The spec does not say what a write does that leaves part of XCH set (an illegal value, R40) or takes
it from such a value to XCH_MASK: that it starts no frame and lets a running one go on undisturbed is the model's choice
(assumption 13). -/
def writeCtlEffect (v : Word) (s : State) : State :=
  if v &&& s.cfg.xchMask = 0 then
    if s.periph.frame.isSome then disturb (storeCtl v s) else storeCtl v s
  else if s.periph.ctl &&& s.cfg.xchMask = 0 ∧ v &&& s.cfg.xchMask = s.cfg.xchMask then
    setFrame (some (newFrame v)) (storeCtl v s)
  else storeCtl v s

/-- `MmioWrite(OFF_CTL, v)`. -/
def writeCtl (v : Word) (s : State) : State := (writeCtlEffect v s).log (.mmioWrite .ctl v)

end Sys2Proof.Machine
end

