-- ==== Sys2Proof/Machine/Wte.lean ====
section
/-!
DEFINITION. The Word Transfer Engine (R110 to R120): the call, and the burst procedure one primitive action at a time.
Each function is one action of one `wte` state; it makes at most one MMIO access or one buffer byte access (R17).
-/
namespace Sys2Proof.Machine

/-- Go to a `wte` state's first action. -/
def goWte (w : Wte) (s : State) : State := s.withBlock { s.block with wte := w, phase := .start }

/-- Go to a `wte` state that begins with a wait or a drain: `polls <- 0` (R112, R115). -/
def goPoll (w : Wte) (s : State) : State :=
  s.withBlock { s.block with wte := w, phase := .start, polls := 0 }

/-- Go to a `wte` state that runs over the words of the burst: `wj <- 0`, and the first word's wait begins. -/
def goWords (w : Wte) (s : State) : State :=
  s.withBlock { s.block with wte := w, phase := .start, polls := 0, wj := 0 }

/-- Go to another action of the same `wte` state. -/
def goPhase (p : Phase) (s : State) : State := s.withBlock { s.block with phase := p }

/-- The poll budget is used up (R112, R115); with POLL_LIMIT = UNBOUNDED it never is. -/
def pollsSpent (c : Config) (polls : Word) : Bool :=
  match c.pollLimit with
  | none => false
  | some n => decide (n ≤ polls.toNat)

/-- R110: `WTE(dir, src, base, n)` on a byte source. -/
def callWte (dir : Dir) (src : WSrc) (base n : Word) (s : State) : State :=
  s.withBlock { s.block with
    wDir := dir, wSrc := src, wBase := base, wSize := n, wOff := 0, wte := .top, phase := .start }

/-- The `cfl` state after the one a WTE call was made in (R125, R128, R145, R151). -/
def afterCall : Cfl → Cfl
  | .sendTop => .finish
  | .recvTop => .finish
  | .c0Send => .c0Recv
  | .c0Recv => .c0Eval
  | .c53Hdr => .c53Pay
  | .c53Pay => .c53Trl
  | .c53Trl => .c53Next
  | .idle => .idle
  | .check => .check
  | .c0Eval => .c0Eval
  | .c53Top => .c53Top
  | .c53Next => .c53Next
  | .finish => .finish

/-- `raise DEVICE_NOT_RESPONDING` (R174). That it is an action of its own, after the poll that used up the budget, is the
model's choice (assumption 1). -/
def raiseNotResponding (s : State) : State := endRequest .deviceNotResponding s

/-- One poll of a wait (R112): read STA; go on when the test holds; otherwise count the poll, and give up when the
budget is spent. -/
def waitPoll (t : StaTest) (onHold : State → State) (s : State) : Res State :=
  let r := readSta s
  if t.holds s.cfg r.1 then .next (onHold r.2)
  else
    let s1 := r.2.withBlock { r.2.block with polls := r.2.block.polls + 1 }
    if pollsSpent s1.cfg s1.block.polls then .next (goPhase .giveUp s1) else .next s1

/-- W_TOP (R111): the call returns when all its bytes are done; otherwise the next burst begins. -/
def wTop (s : State) : State :=
  if s.block.wOff = s.block.wSize then
    s.withBlock { s.block with wte := .none, cfl := afterCall s.block.cfl }
  else goWte .b1TrigOff (s.withBlock { s.block with blen := burstLen s.block })

/-- The CTL read of a read-modify-write (R114, R116, R118). -/
def ctlRead (s : State) : State :=
  let r := readCtl s
  r.2.withBlock { r.2.block with latch := r.1, phase := .last }

/-- B1_TRIG_OFF (R114). -/
def trigOff (s : State) : State :=
  match s.block.phase with
  | .last => goPoll .b2Drain (writeCtl (ctlTrigOff s.cfg s.block.latch) s)
  | .start => ctlRead s
  | .byte _ => ctlRead s
  | .giveUp => ctlRead s

/-- The poll of B2_DRAIN (R115): the drain ends when the RX FIFO is empty, and fails when the budget is spent. -/
def drainPoll (s : State) : State :=
  let r := readSta s
  if r.1.getLsbD s.cfg.rxeBit then goPoll .b3Txe r.2
  else if pollsSpent s.cfg s.block.polls then goPhase .giveUp r.2
  else goPhase .last r.2

/-- B2_DRAIN (R115): poll, then read and discard one RX word. -/
def drain (s : State) : Res State :=
  match s.block.phase with
  | .last =>
    andThen (readRxd s) fun r =>
      .next (r.2.withBlock { r.2.block with polls := r.2.block.polls + 1, phase := .start })
  | .start => .next (drainPoll s)
  | .byte _ => .next (drainPoll s)
  | .giveUp => .next (raiseNotResponding s)

/-- B3_TXE (R116): wait until TXE = 1. -/
def waitTxe (s : State) : Res State :=
  match s.block.phase with
  | .giveUp => .next (raiseNotResponding s)
  | .start => waitPoll .txe (goWte .b4Fl) s
  | .byte _ => waitPoll .txe (goWte .b4Fl) s
  | .last => waitPoll .txe (goWte .b4Fl) s

/-- B4_FL (R116): FL <- blen - 1. -/
def setFl (s : State) : State :=
  match s.block.phase with
  | .last => goWords .b5Words (writeCtl (ctlFrameLen s.block.latch s.block.blen) s)
  | .start => ctlRead s
  | .byte _ => ctlRead s
  | .giveUp => ctlRead s

/-- After a word of B5 or B7: the next word of the burst, or the state that follows (R117, R119). -/
def nextWord (after : State → State) (s : State) : State :=
  let s1 := s.withBlock { s.block with wj := s.block.wj + 1 }
  if s1.block.wj.toNat < burstWords s1.block then goPoll s1.block.wte s1 else after s1

/-- After byte k of a word: the next byte, or `fin` after the fourth. -/
def nextByte (k : Fin 4) (fin : State → State) (s : State) : State :=
  if h : k.val + 1 < 4 then goPhase (.byte ⟨k.val + 1, h⟩) s else fin s

/-- B5 once TXF = 0: a receive sends the dummy word, a send packs its bytes into a cleared word (R117). -/
def beginTxWord (s : State) : State :=
  match s.block.wDir with
  | .receive => goPhase .last (s.withBlock { s.block with latch := dummyWord })
  | .send => goPhase (.byte 0) (s.withBlock { s.block with latch := 0 })

/-- Byte k of a TX word: `src_byte(w_off + x)` for x < blen, 0x00 past the burst (R117). -/
def packByte (k : Fin 4) (s : State) : Res State :=
  let x := burstPos s.block k
  if x < s.block.blen.toNat then
    andThen (srcByte (s.block.wOff.toNat + x) s) fun r =>
      .next (nextByte k (goPhase .last) (r.2.withBlock { r.2.block with latch := setByte r.2.block.latch k r.1 }))
  else
    .next (nextByte k (goPhase .last) (s.withBlock { s.block with latch := setByte s.block.latch k 0 }))

/-- B5_WORDS (R117): wait until TXF = 0, pack the word, write it to TXD. -/
def txWords (s : State) : Res State :=
  match s.block.phase with
  | .start => waitPoll .notTxf beginTxWord s
  | .byte k => packByte k s
  | .last => andThen (writeTxd s.block.latch s) fun s1 => .next (nextWord (goWte .b6TrigOn) s1)
  | .giveUp => .next (raiseNotResponding s)

/-- B6_TRIG_ON (R118). -/
def trigOn (s : State) : State :=
  match s.block.phase with
  | .last => goWords .b7Rx (writeCtl (ctlTrigOn s.cfg s.block.latch) s)
  | .start => ctlRead s
  | .byte _ => ctlRead s
  | .giveUp => ctlRead s

/-- B7 once RXE = 0: read one word; a send discards it (R119). -/
def takeRxWord (s : State) : Res State :=
  andThen (readRxd s) fun r =>
    match r.2.block.wDir with
    | .send => .next (nextWord (goWte .next) r.2)
    | .receive => .next (goPhase (.byte 0) (r.2.withBlock { r.2.block with latch := r.1 }))

/-- Byte k of an RX word: stored when `4wj + k < blen` (R119). -/
def unpackByte (k : Fin 4) (s : State) : Res State :=
  let x := burstPos s.block k
  let fin := nextByte k (nextWord (goWte .next))
  if x < s.block.blen.toNat then
    andThen (dstByte (s.block.wOff.toNat + x) (byteOf s.block.latch k) s) fun s1 => .next (fin s1)
  else .next (fin s)

/-- B7_RX (R119): wait until RXE = 0, read the word, store its bytes. -/
def rxWords (s : State) : Res State :=
  match s.block.phase with
  | .start => waitPoll .notRxe (goPhase .last) s
  | .last => takeRxWord s
  | .byte k => unpackByte k s
  | .giveUp => .next (raiseNotResponding s)

/-- W_NEXT (R111): `w_off <- w_off + blen`. -/
def wNext (s : State) : State :=
  goWte .top (s.withBlock { s.block with wOff := s.block.wOff + s.block.blen.setWidth 32 })

/-- One action of the WTE (R113). -/
def wteAct (s : State) : Res State :=
  match s.block.wte with
  | .none => .next s
  | .top => .next (wTop s)
  | .b1TrigOff => .next (trigOff s)
  | .b2Drain => drain s
  | .b3Txe => waitTxe s
  | .b4Fl => .next (setFl s)
  | .b5Words => txWords s
  | .b6TrigOn => .next (trigOn s)
  | .b7Rx => rxWords s
  | .next => .next (wNext s)

end Sys2Proof.Machine
end

