-- ==== Sys2Proof/Machine/Cfl.lean ====
section
/-!
DEFINITION. The Command Framing Layer's states and the check every request begins with (R140 to R151, R173), one action
at a time.
-/
namespace Sys2Proof.Machine

/-- Go to a `cfl` state. -/
def goCfl (c : Cfl) (s : State) : State := s.withBlock { s.block with cfl := c }

/-- R173 cases 2 and 3: a non-empty buffer that is null or passes 2^32, computed without wrap (R61). -/
def badBuffer (buf size : Word) : Bool :=
  decide (size ≠ 0) && (decide (buf = 0) || decide (2 ^ 32 < buf.toNat + size.toNat))

/-- The first state of a request with buffer operands, or ILLEGAL_REQUEST (R141, R173). -/
def checkBuffer (c : Cfl) (s : State) : State :=
  if badBuffer s.block.buf s.block.size then endRequest .illegalRequest s else goCfl c s

/-- CMD53 at CHECK: the same check, then `cur <- 0; rem <- size` (R141, R150). -/
def checkC53 (s : State) : State :=
  if badBuffer s.block.buf s.block.size then endRequest .illegalRequest s
  else goCfl .c53Top (s.withBlock { s.block with cur := 0, rem := s.block.size })

/-- CHECK (R82, R173): decode op, refuse a reserved op or a bad buffer, enter the request. -/
def checkRequest (s : State) : State :=
  match decodeReq s.block.op s.block.buf s.block.size with
  | .send _ _ => checkBuffer .sendTop s
  | .recv _ _ => checkBuffer .recvTop s
  | .cmd0 _ _ => goCfl .c0Send s
  | .cmd53r _ _ => checkC53 s
  | .cmd53w _ _ => checkC53 s
  | .rsv5 _ _ => endRequest .illegalRequest s
  | .rsv6 _ _ => endRequest .illegalRequest s
  | .rsv7 _ _ => endRequest .illegalRequest s

/-- C0_EVAL (R145, R146). -/
def evalResponse (s : State) : State :=
  endRequest (if s.block.resp = 0x01#8 then .ok else .protocolMismatch) s

/-- C53_TOP (R150) with the header of the chunk (R151). -/
def c53Top (s : State) : State :=
  if s.block.rem = 0 then goCfl .finish s
  else
    let c := chunkLen s.block
    goCfl .c53Hdr (s.withBlock { s.block with chunk := c, hdr := header (isRead s.block) c })

/-- C53_PAY (R151): receive for a read, send for a write. -/
def c53Pay (s : State) : State :=
  callWte (if isRead s.block then .receive else .send) .buf (s.block.buf + s.block.cur)
    (s.block.chunk.setWidth 32) s

/-- C53_NEXT (R150). -/
def c53Next (s : State) : State :=
  goCfl .c53Top (s.withBlock { s.block with
    cur := s.block.cur + s.block.chunk.setWidth 32
    rem := s.block.rem - s.block.chunk.setWidth 32 })

/-- One action of a `cfl` state with no WTE call running. A call on a byte source other than the buffer has no base
(the pseudocode writes `-`) and leaves w_base as it is (assumption 21). -/
def cflAct (s : State) : State :=
  match s.block.cfl with
  | .idle => s
  | .check => checkRequest s
  | .sendTop => callWte .send .buf s.block.buf s.block.size s
  | .recvTop => callWte .receive .buf s.block.buf s.block.size s
  | .c0Send => callWte .send .cmd0f s.block.wBase (BitVec.ofNat 32 cmd0Len) s
  | .c0Recv => callWte .receive .resp s.block.wBase (BitVec.ofNat 32 cmd0RespLen) s
  | .c0Eval => evalResponse s
  | .c53Top => c53Top s
  | .c53Hdr => callWte .send .hdr s.block.wBase (BitVec.ofNat 32 hdrLen) s
  | .c53Pay => c53Pay s
  | .c53Trl => callWte .send .trl s.block.wBase (BitVec.ofNat 32 trlLen) s
  | .c53Next => c53Next s
  | .finish => endRequest .ok s

end Sys2Proof.Machine
end

