-- ==== Sys2Proof/Machine/Sequencer.lean ====
section
/-!
DEFINITION. The sequencer as one agent (R17, R21, R73): one tick is the peripheral's share and then one primitive action
of the block; a request is the ticks from its acceptance to its end.
-/
namespace Sys2Proof.Machine

/-- One primitive action of the block (R17). -/
def act (s : State) : Res State :=
  match s.block.wte with
  | .none => .next (cflAct s)
  | .top => wteAct s
  | .b1TrigOff => wteAct s
  | .b2Drain => wteAct s
  | .b3Txe => wteAct s
  | .b4Fl => wteAct s
  | .b5Words => wteAct s
  | .b6TrigOn => wteAct s
  | .b7Rx => wteAct s
  | .next => wteAct s

/-- Set when the host's resets arrive. -/
def setResets (r : List Nat) (s : State) : State := s.withEnv { s.env with resets := r }

/-- One tick: a reset of the host if it arrives now (R185, R200), else the peripheral's share (R45, R47) and one action of
the block. -/
def tick (s : State) : Res State :=
  match s.env.resets with
  | [] => andThen (breathe s) act
  | 0 :: later => .next (blockReset (setResets later s))
  | (n + 1) :: later => andThen (breathe (setResets (n :: later) s)) act

/-- Tick until the request ends or the fuel does. -/
def runTicks : Nat → State → Res State
  | 0, s => .next s
  | n + 1, s => if s.busy then andThen (tick s) (runTicks n) else .next s

/-- More ticks than any request needs that ends when POLL_LIMIT is a number (assumption 2). -/
def tickFuel : Nat := 2 ^ 128

/-- Go on with the request in progress. -/
def resume (s : State) : Res State := runTicks tickFuel s

/-- Run one request: a strobe while busy has no effect (R50, R217); otherwise accept it and tick to its end. -/
def runRequest (op : BitVec 3) (buf size : Word) (s : State) : Res State :=
  if s.busy then .next s else resume (accept op buf size s)

end Sys2Proof.Machine
end

