-- ==== Sys2Proof/Machine/CommandFraming.lean ====
section
/-!
DEFINITION. The Command Framing Layer's three requests (R145 to R159). Their steps are those of `cflAct` from C0_SEND
and C53_TOP.
-/
namespace Sys2Proof.Machine

/-- CMD0 (R145, op 010); the operands are ignored (R83). -/
def execCmd0 (buf size : Word) (s : State) : Host.Outcome State Fault Refusal :=
  runRequest 0b010#3 buf size s

/-- CMD53R (R152, op 011). -/
def execCmd53r (buf size : Word) (s : State) : Host.Outcome State Fault Refusal :=
  runRequest 0b011#3 buf size s

/-- CMD53W (R155, op 100). -/
def execCmd53w (buf size : Word) (s : State) : Host.Outcome State Fault Refusal :=
  runRequest 0b100#3 buf size s

end Sys2Proof.Machine
end

