-- ==== Sys2Proof/Machine/Reserved.lean ====
section
/-!
DEFINITION. The reserved op codes (R84): the request is accepted and CHECK ends it with ILLEGAL_REQUEST, with no MMIO
or buffer access (R173 case 1).
-/
namespace Sys2Proof.Machine

/-- Op 101, kept for CMD52 (R84). -/
def execRsv5 (buf size : Word) (s : State) : Host.Outcome State Fault Refusal :=
  runRequest 0b101#3 buf size s

/-- Op 110 (R84). -/
def execRsv6 (buf size : Word) (s : State) : Host.Outcome State Fault Refusal :=
  runRequest 0b110#3 buf size s

/-- Op 111 (R84). -/
def execRsv7 (buf size : Word) (s : State) : Host.Outcome State Fault Refusal :=
  runRequest 0b111#3 buf size s

end Sys2Proof.Machine
end

