-- ==== Sys2Proof/Machine/WordTransfer.lean ====
section
/-!
DEFINITION. The Word Transfer Engine's two requests (R125 to R129). Their steps are those of `cflAct` from SEND_TOP and
RECV_TOP.
-/
namespace Sys2Proof.Machine

/-- SEND (R125, op 000). -/
def execSend (buf size : Word) (s : State) : Host.Outcome State Fault Refusal :=
  runRequest 0b000#3 buf size s

/-- RECV (R128, op 001). -/
def execRecv (buf size : Word) (s : State) : Host.Outcome State Fault Refusal :=
  runRequest 0b001#3 buf size s

end Sys2Proof.Machine
end

