-- ==== Sys2Proof/Machine/Dispatch.lean ====
section
/-!
DEFINITION. One arm for each request: its meaning.
-/
namespace Sys2Proof.Machine

def exec (i : Instr) (s : State) : Host.Outcome State Fault Refusal :=
  match i with
  | .send buf size => Sys2Proof.Machine.execSend buf size s
  | .recv buf size => Sys2Proof.Machine.execRecv buf size s
  | .cmd0 buf size => Sys2Proof.Machine.execCmd0 buf size s
  | .cmd53r buf size => Sys2Proof.Machine.execCmd53r buf size s
  | .cmd53w buf size => Sys2Proof.Machine.execCmd53w buf size s
  | .rsv5 buf size => Sys2Proof.Machine.execRsv5 buf size s
  | .rsv6 buf size => Sys2Proof.Machine.execRsv6 buf size s
  | .rsv7 buf size => Sys2Proof.Machine.execRsv7 buf size s

end Sys2Proof.Machine
end

