-- ==== Sys2Proof/Machine/HostPort.lean ====
section
/-!
DEFINITION. What agents outside the block do to it while it is idle (R185): the context flags (R32), the Transfer
Buffer, the peripheral's registers (R205), the interrupt and GPIO collaborators (R180 to R183), and reset.
-/
namespace Sys2Proof.Machine

/-- The host writes `ctx.ready` (R32). -/
def hostSetReady (v : Bool) (s : State) : State := s.withCtx { s.ctx with ready := v }

/-- The host writes `ctx.cs_forced_high` (R32). -/
def hostSetCsForced (v : Bool) (s : State) : State := s.withCtx { s.ctx with csForcedHigh := v }

/-- R33: the chip-select override level exported to the platform. -/
def csOverride (s : State) : Bool := s.ctx.csForcedHigh

/-- The host writes a byte of the buffer it owns (R185). -/
def hostBufWrite (a : Word) (v : Byte) (s : State) : State := s.withMem (s.mem.write a.toNat v)

/-- The host reads the register at an address. -/
def hostMmioRead (a : Nat) (s : State) : Res State :=
  match mmioRegAt s.cfg a with
  | some .ctl => .next (readCtl s).2
  | some .sta => .next (readSta s).2
  | some .txd => .next (readTxd s).2
  | some .rxd => andThen (readRxd s) fun r => .next r.2
  | none => .fault (.mmioUnmapped a)

/-- The host writes the register at an address. A write of STA is ignored (R41); no rule says what a write of RXD
does (R43). -/
def hostMmioWrite (a : Nat) (v : Word) (s : State) : Res State :=
  match mmioRegAt s.cfg a with
  | some .ctl => .next (writeCtl v s)
  | some .sta => .next (s.log (.mmioWrite .sta v))
  | some .txd => writeTxd v s
  | some .rxd => .fault .rxdWritten
  | none => .fault (.mmioUnmapped a)

/-- `interrupt(op)` (R181). -/
def irqOperate (op : IrqOp) (s : State) : State :=
  match op with
  | .enable => s.withIrq { s.irq with enabled := true }
  | .disable => s.withIrq { s.irq with enabled := false }
  | .acknowledge => s.withIrq { s.irq with pending := false }
  | .status => s.log (.irqStatus s.irq.pending)

/-- A chip-ready event latches whatever `enabled` (R181). -/
def chipReadyEvent (s : State) : State := s.withIrq { s.irq with pending := true }

/-- The controller signals the higher-level driver (R181). -/
def irqSignal (s : State) : Bool := s.irq.enabled && s.irq.pending

/-- `gpio(op, id)` on one line (R182). -/
def gpioLineOp (op : GpioOp) (l : GpioLine) : GpioLine :=
  match op with
  | .disable => { l with output := false }
  | .enable => { l with output := true }
  | .high => { l with level := true }
  | .low => { l with level := false }

/-- `gpio(op, id)` (R182). -/
def gpioOperate (op : GpioOp) (id : GpioId) (s : State) : State :=
  match id with
  | .resetD => s.withGpio { s.gpio with resetD := gpioLineOp op s.gpio.resetD }
  | .resetA => s.withGpio { s.gpio with resetA := gpioLineOp op s.gpio.resetA }
  | .power => s.withGpio { s.gpio with power := gpioLineOp op s.gpio.power }

/-- The number of a GPIO op (R183). -/
def GpioOp.code : GpioOp → Nat
  | .disable => 0
  | .enable => 1
  | .high => 2
  | .low => 3

/-- The number of a GPIO line (R183). -/
def GpioId.code : GpioId → Nat
  | .resetD => 0
  | .resetA => 1
  | .power => 2

/-- The number of an interrupt op (R183). -/
def IrqOp.code : IrqOp → Nat
  | .enable => 0
  | .disable => 1
  | .acknowledge => 2
  | .status => 3

/-- Take the first move of the inbox off it. -/
def dropMove (s : State) : State := s.withEnv { s.env with inbox := s.env.inbox.tail }

/-- The word of the request the inbox begins with, where it begins with one. -/
def nextRequest (s : State) : Option ReqWord :=
  match s.env.inbox with
  | .request w :: _ => some w
  | _ => none

/-- A move other than a request. The peripheral may take steps before it (R73). -/
def hostMove (m : HostMove) (s : State) : Res State :=
  match m with
  | .request _ => .next s
  | .setReady v => .next (hostSetReady v s)
  | .setCsForced v => .next (hostSetCsForced v s)
  | .bufWrite a v => .next (hostBufWrite a v s)
  | .mmioRead a => hostMmioRead a s
  | .mmioWrite a v => hostMmioWrite a v s
  | .irq op => .next (irqOperate op s)
  | .chipReady => .next (chipReadyEvent s)
  | .gpio op id => .next (gpioOperate op id s)
  | .reset => .next (blockReset s)

/-- The step of an idle block that no request waits for: the peripheral's share, then the next move, if any (R202). -/
def idleStep (s : State) : Res State :=
  match s.env.inbox with
  | [] => breathe s
  | m :: _ => andThen (breathe (dropMove s)) (hostMove m)

/-- Place a request at the head of the inbox of an idle block. -/
def placeRequest (w : ReqWord) (s : State) : State :=
  (s.withBlock { s.block with cfl := .idle, wte := .none }).withEnv
    { s.env with inbox := .request w :: s.env.inbox }

end Sys2Proof.Machine
end

