-- ==== Sys2Proof/Machine/Observe.lean ====
section
/-!
DEFINITION. The observation a claim states through (R18): MMIO events, bytes on the link, accesses to buffer memory,
completion strobes. Each is a view of the trace.
-/
namespace Sys2Proof.Machine

/-- The MMIO access an event is, if it is one. -/
def Event.mmio? : Event → Option Event
  | .mmioRead r v => some (.mmioRead r v)
  | .mmioWrite r v => some (.mmioWrite r v)
  | _ => none

/-- The byte an event puts on the link. -/
def Event.wireOut? : Event → Option Byte
  | .wire o _ => some o
  | _ => none

/-- The byte an event takes from the link. -/
def Event.wireIn? : Event → Option Byte
  | .wire _ i => some i
  | _ => none

/-- The address an event reads in buffer memory. -/
def Event.readAddr? : Event → Option Nat
  | .memRead a _ => some a
  | _ => none

/-- The address an event writes in buffer memory. -/
def Event.writeAddr? : Event → Option Nat
  | .memWrite a _ => some a
  | _ => none

/-- The status an event completes a request with. -/
def Event.completed? : Event → Option Status
  | .complete st => some st
  | _ => none

/-- The MMIO events so far, in order. -/
def State.mmioEvents (s : State) : List Event := s.trace.filterMap Event.mmio?

/-- The bytes put on the link so far, in order. -/
def State.wireOut (s : State) : List Byte := s.trace.filterMap Event.wireOut?

/-- The bytes taken from the link so far, in order. -/
def State.wireIn (s : State) : List Byte := s.trace.filterMap Event.wireIn?

/-- The buffer addresses the block has read, in order. -/
def State.readAddrs (s : State) : List Nat := s.trace.filterMap Event.readAddr?

/-- The buffer addresses the block has written, in order. -/
def State.writeAddrs (s : State) : List Nat := s.trace.filterMap Event.writeAddr?

/-- The completion strobes so far, in order. -/
def State.completions (s : State) : List Status := s.trace.filterMap Event.completed?

/-- The n bytes of buffer memory from an address on. -/
def Memory.bytes (m : Memory) (a n : Nat) : List Byte := (List.range n).map fun i => Memory.read m (a + i)

end Sys2Proof.Machine
end

