-- ==== Sys2Proof/Machine/Step.lean ====
section
/-!
DEFINITION. One step of the machine: a busy block goes on with its request; an idle block runs the request that
waits on its port, or lets the outside make its next move.
-/
namespace Sys2Proof.Machine

/-- One step. A request runs from its acceptance to its end (R50, R170); as before every move of the host, the peripheral
may take steps before the strobe (R73, assumption 10). -/
def step (s : State) : Host.Outcome State Fault Refusal :=
  if s.busy then resume s
  else
    match nextRequest s with
    | some w => andThen (breathe (dropMove s)) (exec (decode w))
    | none => idleStep s

/-- The state with the request of these bits waiting on the port of an idle block (assumption 29). -/
def State.withFetchWord (s : State) (nbits w : Nat) : State :=
  placeRequest (BitVec.ofNat 67 (w % 2 ^ nbits)) s

end Sys2Proof.Machine
end

