-- ==== Sys2Proof/Safety.lean ====
section
/-!
DEFINITION. What counts as a safe run, in the terms claims use: the invariant of the machine, the premises about the
peripheral that a claim may make (R47, R205, R216), and the images of a request on the link (R111, R121, R157, R158).
-/
namespace Sys2Proof.Machine

/-! ## Premises -/

/-- The block is idle and the peripheral is as the host must leave it before a request (R205, R216): no frame running
and the TX FIFO empty. Stale RX words may remain. The configuration meets R206, and no reset is on its way. -/
structure State.Ready (s : State) : Prop where
  cflIdle : s.block.cfl = .idle
  wteNone : s.block.wte = .none
  cfgWf : s.cfg.wf = true
  frameNone : s.periph.frame = none
  txNone : s.periph.tx = []
  noReset : s.env.resets = []

/-- The stale RX words can be drained within the poll budget (R115). -/
def State.staleFits (s : State) : Prop := ∀ n, s.cfg.pollLimit = some n → s.periph.rx.length ≤ n

/-- A healthy peripheral that answers in time (R47, R211): it takes at least one step before each action of the block
while a frame runs. -/
def State.healthy (s : State) : Prop :=
  (∀ k ∈ s.env.sched.items, 1 ≤ k) ∧ ∃ k, s.env.sched.rest = some k ∧ 1 ≤ k

/-- A stuck peripheral (R47): it takes no step. -/
def State.stuck (s : State) : Prop :=
  (∀ k ∈ s.env.sched.items, k = 0) ∧ s.env.sched.rest = some 0

/-- The condition of the wait a `wte` state makes, of what the FIFOs hold (R112, R116, R117, R119). -/
def waitHolds (s : State) : Prop :=
  match s.block.wte with
  | .b3Txe => s.periph.tx = []
  | .b5Words => s.periph.tx.length < s.cfg.txDepth
  | .b7Rx => s.periph.rx ≠ []
  | _ => False

/-! ## Splits and images -/

/-- The parts of n when it is cut into whole parts of `m` and one shorter part if anything is left (R111, R150). -/
def splitLens (m n : Nat) : List Nat :=
  List.replicate (n / m) m ++ (if n % m = 0 then [] else [n % m])

/-- The burst lengths of a WTE call of n bytes (R111). -/
def burstLens (n : Nat) : List Nat := splitLens burstMax n

/-- The chunk lengths of a CMD53 request of n bytes (R150, R157). -/
def chunkLens (n : Nat) : List Nat := splitLens chunkMax n

/-- Wire bytes a chunk adds to its payload: header and trailer (R151). -/
def chunkOverhead : Nat := hdrLen + trlLen

/-- What a CMD53 request puts on the link when its payload part is `data` (R158): for each chunk its header, its part
of the payload and its trailer. -/
def cmd53Image (read : Bool) (data : List Byte) : List Byte :=
  (chunkLens data.length).zipIdx.flatMap fun c =>
    (header read (BitVec.ofNat 9 c.1)).toList ++ (data.drop (chunkMax * c.2)).take c.1 ++ trailer read

/-- The payload part of the n-byte CMD53 request's link bytes, chunk by chunk (R151). -/
def cmd53Payload (n : Nat) (link : List Byte) : List Byte :=
  (chunkLens n).zipIdx.flatMap fun c =>
    (link.drop ((chunkMax + chunkOverhead) * c.2 + hdrLen)).take c.1

/-- The length of the last burst of an n-byte call, n > 0 (R111). -/
def lastBurst (n : Nat) : Nat := if n % burstMax = 0 then burstMax else n % burstMax

/-- The register accesses of one burst of b bytes, with the STA polls left out (R113). -/
def burstShape (b : Nat) : List (MmioReg × Bool) :=
  [(.ctl, false), (.ctl, true), (.ctl, false), (.ctl, true)]
  ++ List.replicate ((b + 3) / 4) (.txd, true)
  ++ [(.ctl, false), (.ctl, true)]
  ++ List.replicate ((b + 3) / 4) (.rxd, false)

/-- The register accesses of a WTE call of n bytes (R111). -/
def callShape (n : Nat) : List (MmioReg × Bool) := (burstLens n).flatMap burstShape

/-- The register accesses of a request that ends with all its waits succeeding and no stale RX word, with the STA polls
left out (R125, R128, R145, R151). -/
def requestShape : Instr → List (MmioReg × Bool)
  | .send _ n => callShape n.toNat
  | .recv _ n => callShape n.toNat
  | .cmd0 _ _ => callShape cmd0Len ++ callShape cmd0RespLen
  | .cmd53r _ n => (chunkLens n.toNat).flatMap fun c => callShape hdrLen ++ callShape c ++ callShape trlLen
  | .cmd53w _ n => (chunkLens n.toNat).flatMap fun c => callShape hdrLen ++ callShape c ++ callShape trlLen
  | .rsv5 _ _ => []
  | .rsv6 _ _ => []
  | .rsv7 _ _ => []

/-- The wire length of a request (R103). -/
def wireLength : Instr → Nat
  | .send _ n => n.toNat
  | .recv _ n => n.toNat
  | .cmd0 _ _ => 9
  | .cmd53r _ n => n.toNat + 18 * ((n.toNat + 510) / 511)
  | .cmd53w _ n => n.toNat + 18 * ((n.toNat + 510) / 511)
  | .rsv5 _ _ => 0
  | .rsv6 _ _ => 0
  | .rsv7 _ _ => 0

/-- The register an event accesses and whether it writes it, with the STA polls left out. -/
def Event.shape? : Event → Option (MmioReg × Bool)
  | .mmioRead .sta _ => none
  | .mmioRead r _ => some (r, false)
  | .mmioWrite r _ => some (r, true)
  | _ => none

/-- The register accesses so far, with the STA polls left out. -/
def State.mmioShape (s : State) : List (MmioReg × Bool) := s.trace.filterMap Event.shape?

/-! ## The invariant -/

/-- The WTE call in progress is the one its `cfl` state makes (R125, R128, R145, R151). -/
def callOk (b : Block) : Prop :=
  match b.cfl with
  | .sendTop => b.wDir = .send ∧ b.wSrc = .buf ∧ b.wBase = b.buf ∧ b.wSize = b.size
  | .recvTop => b.wDir = .receive ∧ b.wSrc = .buf ∧ b.wBase = b.buf ∧ b.wSize = b.size
  | .c0Send => b.wDir = .send ∧ b.wSrc = .cmd0f ∧ b.wSize = BitVec.ofNat 32 cmd0Len
  | .c0Recv => b.wDir = .receive ∧ b.wSrc = .resp ∧ b.wSize = BitVec.ofNat 32 cmd0RespLen
  | .c53Hdr => b.wDir = .send ∧ b.wSrc = .hdr ∧ b.wSize = BitVec.ofNat 32 hdrLen
  | .c53Pay =>
    b.wDir = (if isRead b then .receive else .send) ∧ b.wSrc = .buf ∧ b.wBase = b.buf + b.cur
      ∧ b.wSize = b.chunk.setWidth 32
  | .c53Trl => b.wDir = .send ∧ b.wSrc = .trl ∧ b.wSize = BitVec.ofNat 32 trlLen
  | _ => False

/-- The burst in progress lies inside its call, and the word index inside the burst (R111, R113). -/
def burstOk (b : Block) : Prop :=
  match b.wte with
  | .none => True
  | .top => b.wOff.toNat ≤ b.wSize.toNat
  | .b5Words =>
    1 ≤ b.blen.toNat ∧ b.blen.toNat ≤ burstMax ∧ b.wOff.toNat + b.blen.toNat ≤ b.wSize.toNat
      ∧ b.wj.toNat < burstWords b
  | .b7Rx =>
    1 ≤ b.blen.toNat ∧ b.blen.toNat ≤ burstMax ∧ b.wOff.toNat + b.blen.toNat ≤ b.wSize.toNat
      ∧ b.wj.toNat < burstWords b
  | _ => 1 ≤ b.blen.toNat ∧ b.blen.toNat ≤ burstMax ∧ b.wOff.toNat + b.blen.toNat ≤ b.wSize.toNat

/-- The request that a `cfl` state serves is one that state can serve, with its buffer inside the space (R61, R81). -/
def requestOk (b : Block) : Prop :=
  match b.cfl with
  | .idle => True
  | .check => True
  | .sendTop => b.op = 0b000#3 ∧ badBuffer b.buf b.size = false
  | .recvTop => b.op = 0b001#3 ∧ badBuffer b.buf b.size = false
  | .c0Send => b.op = 0b010#3
  | .c0Recv => b.op = 0b010#3
  | .c0Eval => b.op = 0b010#3
  | .finish => b.op ≠ 0b010#3
  | _ => (b.op = 0b011#3 ∨ b.op = 0b100#3) ∧ badBuffer b.buf b.size = false

/-- The chunk in progress lies inside what remains, and what is done and what remains make up the size (R150). -/
def chunkOk (b : Block) : Prop :=
  match b.cfl with
  | .c53Top => b.cur.toNat + b.rem.toNat = b.size.toNat
  | .c53Hdr | .c53Pay | .c53Trl | .c53Next =>
    b.cur.toNat + b.rem.toNat = b.size.toNat ∧ 1 ≤ b.chunk.toNat ∧ b.chunk.toNat ≤ chunkMax
      ∧ b.chunk.toNat ≤ b.rem.toNat
  | _ => True

/-- The invariant: what holds of the machine between any two of its actions. -/
structure State.Inv (s : State) : Prop where
  /-- The configuration meets R206 and R63. -/
  cfgWf : s.cfg.wf = true
  /-- Buffer memory is in canonical form, inside its 2^32 bytes (R60). -/
  memWf : s.mem.wf = true
  /-- No FIFO holds more than its depth (R44). -/
  txFits : s.periph.tx.length ≤ s.cfg.txDepth
  rxFits : s.periph.rx.length ≤ s.cfg.rxDepth
  /-- The FIFO-clear bits of CTL read as 0 (R40). -/
  ctlClear : s.periph.ctl &&& clearMask s.cfg = 0
  /-- A frame in progress has bytes left, at most 256 in all (R45). -/
  frameOk : ∀ f, s.periph.frame = some f → f.i < f.n ∧ f.n ≤ 256
  /-- No WTE call runs but from a `cfl` state that makes one (R21). -/
  callOk : s.block.wte ≠ .none → callOk s.block
  burstOk : burstOk s.block
  requestOk : requestOk s.block
  chunkOk : chunkOk s.block

end Sys2Proof.Machine
end

