-- ==== Sys2Proof/Certificates/Slice0/Obligations.lean ====
section
/-!
DEFINITION. The statements about this model, for the provers. Each docstring names the rules of the spec it rests on.
-/

open Sys2Proof Sys2Proof.Machine

/-! ## Reset -/

/-- R31, R22, R20's reset column, R21: the block right after reset. `hdr`, `resp` and `w_src`, which R20 leaves
unspecified, are not spoken of. -/
def Obligations.ResetLeavesBlockIdleAndCleared : Prop :=
  let s := State.reset
  s.busy = false ∧ s.block.cfl = .idle ∧ s.block.wte = .none ∧ s.block.status = .ok
  ∧ s.block.op = 0 ∧ s.block.buf = 0 ∧ s.block.size = 0 ∧ s.block.cur = 0 ∧ s.block.rem = 0
  ∧ s.block.chunk = 0 ∧ s.block.wDir = .send ∧ s.block.wBase = 0 ∧ s.block.wSize = 0 ∧ s.block.wOff = 0
  ∧ s.block.blen = 0 ∧ s.block.wj = 0 ∧ s.block.polls = 0
  ∧ s.ctx.ready = false ∧ s.ctx.csForcedHigh = false
  ∧ s.irq.enabled = false ∧ s.irq.pending = false

/-- R200, R201: a reset that arrives while a request runs, or that the host asserts while the block is idle, loads
the reset values, gives no completion strobe, makes no access, and leaves the peripheral, buffer memory and the
collaborators as they were; the host's later resets are still to come. In the idle case no frame runs, so that the peripheral takes no step of its own. -/
def Obligations.ResetAbandonsRequestWithoutStrobe : Prop :=
  ∀ (s : State) (rest : List HostMove) (later : List Nat),
    (s.busy = true ∧ s.env.resets = 0 :: later)
      ∨ (s.busy = false ∧ s.env.inbox = .reset :: rest ∧ s.periph.frame = none) →
    ∃ t, step s = .next t ∧ t.busy = false ∧ t.block.cfl = .idle ∧ t.block.wte = .none ∧ t.block.status = .ok
      ∧ t.block.op = 0 ∧ t.block.buf = 0 ∧ t.block.size = 0 ∧ t.block.cur = 0 ∧ t.block.rem = 0
      ∧ t.block.chunk = 0 ∧ t.block.wDir = .send ∧ t.block.wBase = 0 ∧ t.block.wSize = 0
      ∧ t.block.wOff = 0 ∧ t.block.blen = 0 ∧ t.block.wj = 0 ∧ t.block.polls = 0
      ∧ t.ctx.ready = false ∧ t.ctx.csForcedHigh = false
      ∧ t.trace = s.trace ∧ t.periph = s.periph ∧ t.mem = s.mem ∧ t.irq = s.irq ∧ t.gpio = s.gpio
      ∧ t.cfg = s.cfg ∧ (s.busy = true → t.env.resets = later)

/-! ## The invariant -/

/-- The invariant holds right after power-up and reset (the power-up values are the model's choices, assumptions 4 to
9). -/
def Obligations.ResetSatisfiesTheInvariant : Prop := State.Inv State.reset

/-- Every step keeps the invariant (R44, R60, R61, R111, R113, R150 at every moment), from every state that meets it,
whatever the link partner, the peripheral's pace, the host and a reset do. -/
def Obligations.StepKeepsTheInvariant : Prop :=
  ∀ s t : State, s.Inv → step s = .next t → t.Inv

/-! ## Encoding -/

/-- R80, R81: no bit of any request is dropped. -/
def Obligations.DecodeOfEncodeIsTheRequest : Prop := ∀ i : Instr, decode (encode i) = i

/-- R82, R86: every word is the word of exactly the request it decodes to. -/
def Obligations.EncodeOfDecodeIsTheWord : Prop := ∀ w : ReqWord, encode (decode w) = w

/-- R81, R82: every op value selects exactly one row, with the operand fields taken unchanged (R80). -/
def Obligations.EveryOpValueSelectsOneRow : Prop :=
  ∀ (op : BitVec 3) (buf size : Word),
    (decodeReq op buf size).op = op ∧ (decodeReq op buf size).buf = buf ∧ (decodeReq op buf size).size = size
    ∧ ∀ i : Instr, i.op = op → i.buf = buf → i.size = size → i = decodeReq op buf size

/-- R81, R84: the eight op values of the opcode table, and one word of each buffer family with its fields written out
(the layout of the fields is the model's choice, assumption 3). -/
def Obligations.OpcodeTableWordsDecode : Prop :=
  decodeTableWord 8 0 = some (.send 0 0) ∧ decodeTableWord 8 1 = some (.recv 0 0)
  ∧ decodeTableWord 8 2 = some (.cmd0 0 0) ∧ decodeTableWord 8 3 = some (.cmd53r 0 0)
  ∧ decodeTableWord 8 4 = some (.cmd53w 0 0) ∧ decodeTableWord 8 5 = some (.rsv5 0 0)
  ∧ decodeTableWord 8 6 = some (.rsv6 0 0) ∧ decodeTableWord 8 7 = some (.rsv7 0 0)
  ∧ decodeTableWord 72 (5 * 2 ^ 35 + 0x2000 * 2 ^ 3 + 0) = some (.send 0x2000 5)
  ∧ decodeTableWord 72 (3 * 2 ^ 35 + 0x3000 * 2 ^ 3 + 1) = some (.recv 0x3000 3)
  ∧ decodeTableWord 72 (0xFFFFFFFF * 2 ^ 35 + 0xFFFFFFFF * 2 ^ 3 + 3) = some (.cmd53r 0xFFFFFFFF 0xFFFFFFFF)
  ∧ decodeTableWord 72 (40 * 2 ^ 35 + 0x1000 * 2 ^ 3 + 4) = some (.cmd53w 0x1000 40)
  ∧ decodeTableWord 72 (2 ^ 67) = none

/-! ## Steps -/

/-- R50, R73, R82: an idle block with a request on its port takes it off the port and, after the steps the peripheral
takes before the strobe, runs the request that the word decodes to; with no frame running the peripheral takes none. -/
def Obligations.StepRunsTheDecodedRequest : Prop :=
  ∀ (s : State) (w : ReqWord) (rest : List HostMove),
    s.busy = false → s.env.inbox = .request w :: rest →
    step s = andThen (breathe (s.withEnv { s.env with inbox := rest })) (exec (decode w))
    ∧ (s.periph.frame = none → step s = exec (decode w) (s.withEnv { s.env with inbox := rest }))

/-- The very next step runs a request placed on the port, after the steps the peripheral takes before the strobe (the
placing is the model's own, assumption 29). -/
def Obligations.PlacedRequestRunsNext : Prop :=
  ∀ (s : State) (nbits w : Nat) (i : Instr), decodeTableWord nbits w = some i →
    step (s.withFetchWord nbits w)
        = andThen (breathe (s.withBlock { s.block with cfl := .idle, wte := .none })) (exec i)
    ∧ (s.periph.frame = none →
        step (s.withFetchWord nbits w) = exec i (s.withBlock { s.block with cfl := .idle, wte := .none }))

/-- R50, R217: a request strobe while busy has no effect. -/
def Obligations.StrobeWhileBusyHasNoEffect : Prop :=
  ∀ (i : Instr) (s : State), s.busy = true → exec i s = .next s

/-- R17, R69, R73: one tick makes any number of exchanges on the link and then at most one event of the block: an access
or the completion strobe. -/
def Obligations.TickMakesAtMostOneAccess : Prop :=
  ∀ s t : State, tick s = .next t →
    ∃ ws es : List Event, t.trace = s.trace ++ ws ++ es
      ∧ (∀ e ∈ ws, ∃ o i, e = .wire o i)
      ∧ (es = [] ∨ ∃ e, es = [e] ∧ ∀ o i, e ≠ .wire o i)

/-! ## Requests that end at CHECK -/

/-- R84, R173 case 1: a reserved op ends ILLEGAL_REQUEST, changes the status and the request registers that
acceptance loads (R50), and makes no access. -/
def Obligations.ReservedOpsEndIllegalWithNoAccess : Prop :=
  ∀ (s : State) (buf size : Word) (i : Instr),
    i = .rsv5 buf size ∨ i = .rsv6 buf size ∨ i = .rsv7 buf size →
    s.busy = false → s.env.resets = [] → s.periph.frame = none →
    ∃ t, exec i s = .next t
      ∧ t.block = { s.block with op := i.op, buf := buf, size := size, status := .illegalRequest, wte := .none }
      ∧ t.trace = s.trace ++ [.complete .illegalRequest]
      ∧ t.mem = s.mem ∧ t.ctx = s.ctx ∧ t.irq = s.irq ∧ t.gpio = s.gpio ∧ t.cfg = s.cfg
      ∧ t.periph = s.periph

/-- R61, R173 cases 2 and 3: a non-empty null buffer, or one that passes 2^32, ends ILLEGAL_REQUEST before any
access. -/
def Obligations.BadBuffersEndIllegalWithNoAccess : Prop :=
  ∀ (s : State) (buf size : Word) (i : Instr),
    i = .send buf size ∨ i = .recv buf size ∨ i = .cmd53r buf size ∨ i = .cmd53w buf size →
    size ≠ 0 → (buf = 0 ∨ 2 ^ 32 < buf.toNat + size.toNat) →
    s.busy = false → s.env.resets = [] → s.periph.frame = none →
    ∃ t, exec i s = .next t
      ∧ t.block = { s.block with op := i.op, buf := buf, size := size, status := .illegalRequest, wte := .none }
      ∧ t.trace = s.trace ++ [.complete .illegalRequest]
      ∧ t.mem = s.mem ∧ t.ctx = s.ctx ∧ t.irq = s.irq ∧ t.gpio = s.gpio ∧ t.cfg = s.cfg
      ∧ t.periph = s.periph

/-- R111, R125, R128, R150, R173: a request of size 0 ends OK at once, for any buf, with no register access, no
buffer access and no wire byte. -/
def Obligations.SizeZeroEndsOkWithNoAccess : Prop :=
  ∀ (s : State) (buf : Word) (i : Instr),
    i = .send buf 0 ∨ i = .recv buf 0 ∨ i = .cmd53r buf 0 ∨ i = .cmd53w buf 0 →
    s.busy = false → s.env.resets = [] → s.periph.frame = none →
    ∃ t, exec i s = .next t ∧ t.busy = false ∧ t.block.status = .ok
      ∧ t.trace = s.trace ++ [.complete .ok]
      ∧ t.mem = s.mem ∧ t.ctx = s.ctx ∧ t.irq = s.irq ∧ t.gpio = s.gpio ∧ t.cfg = s.cfg
      ∧ t.periph = s.periph

/-! ## Statuses -/

/-- R61, R84, R173, R175: a request that has ended reports ILLEGAL_REQUEST exactly when it is not one the block
runs, and then it has accessed neither a register nor a byte of memory. -/
def Obligations.IllegalExactlyWhenNotWellFormed : Prop :=
  ∀ (i : Instr) (s t : State), s.busy = false → s.env.resets = [] →
    exec i s = .next t → t.busy = false →
    (t.block.status = .illegalRequest ↔ i.wellFormed = false)
    ∧ (t.block.status = .illegalRequest →
        t.mmioEvents = s.mmioEvents ∧ t.readAddrs = s.readAddrs ∧ t.writeAddrs = s.writeAddrs)

/-- R146, R172, R174, R175, R179: PROTOCOL_MISMATCH comes from CMD0 with a response other than 0x01 and from nothing
else; DEVICE_NOT_RESPONDING only when POLL_LIMIT is a number, with that many polls counted; a CMD0 that ends OK had the
response 0x01. -/
def Obligations.StatusesHaveTheirCauses : Prop :=
  ∀ (i : Instr) (s t : State), s.busy = false → s.env.resets = [] →
    exec i s = .next t → t.busy = false →
    (t.block.status = .protocolMismatch → (∃ b n, i = .cmd0 b n) ∧ t.block.resp ≠ 0x01)
    ∧ (t.block.status = .deviceNotResponding → ∃ n, s.cfg.pollLimit = some n ∧ n ≤ t.block.polls.toNat)
    ∧ (t.block.status = .ok → (∃ b n, i = .cmd0 b n) → t.block.resp = 0x01)

/-- R50, R170: a request that ends gives exactly one completion strobe, with the status it ended with. -/
def Obligations.CompletionStrobeIsGivenOnce : Prop :=
  ∀ (i : Instr) (s t : State), s.busy = false → s.env.resets = [] → exec i s = .next t →
    (t.busy = false → t.completions = s.completions ++ [t.block.status])
    ∧ (t.busy = true → t.completions = s.completions)

/-- From a peripheral the host has brought to idle (R205, R216) every request answers a next state, whatever the link
partner and the pace of the peripheral; and it has ended when POLL_LIMIT is a number (R112, R174). That a request
which never ends answers a state in which it still runs is the model's (assumption 2). -/
def Obligations.EveryRequestAnswersAndEndsWhenPollsAreLimited : Prop :=
  ∀ (i : Instr) (s : State), s.Ready →
    ∃ t, exec i s = .next t ∧ (s.cfg.pollLimit ≠ none → t.busy = false)

/-! ## What each request does, whatever the pace of the peripheral -/

/-- R121, R125: a SEND that ends OK has put exactly the buffer's bytes on the link, in order, and stored nothing; the
FIFOs are empty and no frame runs (R120). -/
def Obligations.SendThatEndsOkHasSentTheBuffer : Prop :=
  ∀ (s t : State) (buf size : Word), s.Ready → s.env.race = false →
    exec (.send buf size) s = .next t → t.busy = false → t.block.status = .ok →
    t.wireOut = s.wireOut ++ s.mem.bytes buf.toNat size.toNat
    ∧ t.mem = s.mem ∧ t.periph.tx = [] ∧ t.periph.frame = none
    ∧ (size ≠ 0 → t.periph.rx = [])

/-- R121, R128: with memory in its canonical form, which every step keeps, a RECV that ends OK has put size bytes 0xFF on the link and stored the bytes received, in order, at
buf on; every other byte of memory is as before. -/
def Obligations.RecvThatEndsOkHasStoredTheReceivedBytes : Prop :=
  ∀ (s t : State) (buf size : Word), s.Ready → s.mem.wf = true →
    exec (.recv buf size) s = .next t → t.busy = false → t.block.status = .ok →
    t.wireOut = s.wireOut ++ List.replicate size.toNat 0xFF
    ∧ t.wireIn = s.wireIn ++ t.mem.bytes buf.toNat size.toNat
    ∧ (∀ a, a < buf.toNat ∨ buf.toNat + size.toNat ≤ a → t.mem.read a = s.mem.read a)
    ∧ t.periph.tx = [] ∧ t.periph.frame = none ∧ (size ≠ 0 → t.periph.rx = [])

/-- R90, R91, R145, R146: a CMD0 whose waits all succeed has put its frame and one byte 0xFF on the link, has the
ninth received byte in `resp`, and reports OK exactly when that byte is 0x01. -/
def Obligations.Cmd0EvaluatesTheNinthByte : Prop :=
  ∀ (s t : State) (buf size : Word), s.Ready →
    exec (.cmd0 buf size) s = .next t → t.busy = false → t.block.status ≠ .deviceNotResponding →
    t.wireOut = s.wireOut ++ [0xFF, 0x40, 0x00, 0x00, 0x00, 0x00, 0x95, 0xFF, 0xFF]
    ∧ (∃ ins : List Byte, ins.length = 8 ∧ t.wireIn = s.wireIn ++ ins ++ [t.block.resp])
    ∧ t.block.status = (if t.block.resp = 0x01 then .ok else .protocolMismatch)
    ∧ t.mem = s.mem

/-- R152, R157, R158: with memory in its canonical form, which every step keeps, a CMD53R that ends OK has put the read image of size bytes 0xFF on the link, and has stored the
bytes received during the payload parts, in order, at buf on; every other byte of memory is as before. -/
def Obligations.Cmd53ReadThatEndsOkHasStoredThePayload : Prop :=
  ∀ (s t : State) (buf size : Word), s.Ready → s.mem.wf = true →
    exec (.cmd53r buf size) s = .next t → t.busy = false → t.block.status = .ok →
    t.wireOut = s.wireOut ++ cmd53Image true (List.replicate size.toNat 0xFF)
    ∧ (∃ ins : List Byte,
        ins.length = size.toNat + chunkOverhead * ((size.toNat + 510) / 511)
        ∧ t.wireIn = s.wireIn ++ ins
        ∧ t.mem.bytes buf.toNat size.toNat = cmd53Payload size.toNat ins)
    ∧ (∀ a, a < buf.toNat ∨ buf.toNat + size.toNat ≤ a → t.mem.read a = s.mem.read a)

/-- R155, R157, R158: a CMD53W that ends OK has put the write image of the buffer on the link: for each chunk of at
most 511 bytes its header, its part of the buffer and its trailer; memory is as before. -/
def Obligations.Cmd53WriteThatEndsOkHasSentItsImage : Prop :=
  ∀ (s t : State) (buf size : Word), s.Ready → s.env.race = false →
    exec (.cmd53w buf size) s = .next t → t.busy = false → t.block.status = .ok →
    t.wireOut = s.wireOut ++ cmd53Image false (s.mem.bytes buf.toNat size.toNat)
    ∧ t.mem = s.mem

/-! ## Completion under a healthy peripheral

The RX FIFO holds fewer than 2^32 stale words: with POLL_LIMIT = UNBOUNDED the drain of the first burst takes them one by
one. Every depth of a real FIFO gives it (R44). -/

/-- R121, R125, R126: under a healthy peripheral that answers in time, a SEND of a buffer that exists completes OK
with the buffer on the link, memory unchanged, FL holding the last burst's length minus one and XCH set. -/
def Obligations.SendCompletes : Prop :=
  ∀ (s : State) (buf size : Word), s.Ready → s.staleFits → s.periph.rx.length < 2 ^ 32 → s.healthy → s.env.race = false →
    (Instr.send buf size).wellFormed = true →
    ∃ t, exec (.send buf size) s = .next t ∧ t.busy = false ∧ t.block.status = .ok
      ∧ t.wireOut = s.wireOut ++ s.mem.bytes buf.toNat size.toNat ∧ t.mem = s.mem
      ∧ (size ≠ 0 → (ctlFl (ctlValue t.cfg t.periph)).toNat = lastBurst size.toNat - 1
          ∧ ctlValue t.cfg t.periph &&& t.cfg.xchMask = t.cfg.xchMask)

/-- R121, R128, R129: the same for RECV, with the received bytes in the buffer (memory is in its canonical form, which
every step keeps). -/
def Obligations.RecvCompletes : Prop :=
  ∀ (s : State) (buf size : Word), s.Ready → s.staleFits → s.periph.rx.length < 2 ^ 32 → s.healthy → s.mem.wf = true →
    (Instr.recv buf size).wellFormed = true →
    ∃ t, exec (.recv buf size) s = .next t ∧ t.busy = false ∧ t.block.status = .ok
      ∧ t.wireOut = s.wireOut ++ List.replicate size.toNat 0xFF
      ∧ t.wireIn = s.wireIn ++ t.mem.bytes buf.toNat size.toNat
      ∧ (size ≠ 0 → (ctlFl (ctlValue t.cfg t.periph)).toNat = lastBurst size.toNat - 1
          ∧ ctlValue t.cfg t.periph &&& t.cfg.xchMask = t.cfg.xchMask)

/-- R83, R145, R146: under a healthy peripheral that answers in time, CMD0 completes with any operands, reporting OK
exactly when the ninth byte the link partner answers is 0x01; that byte is in `resp`. -/
def Obligations.Cmd0Completes : Prop :=
  ∀ (s : State) (buf size : Word), s.Ready → s.staleFits → s.periph.rx.length < 2 ^ 32 → s.healthy →
    ∃ t, exec (.cmd0 buf size) s = .next t ∧ t.busy = false
      ∧ t.block.status = (if t.block.resp = 0x01 then .ok else .protocolMismatch)
      ∧ t.wireOut = s.wireOut ++ [0xFF, 0x40, 0x00, 0x00, 0x00, 0x00, 0x95, 0xFF, 0xFF]
      ∧ (∃ ins : List Byte, ins.length = 8 ∧ t.wireIn = s.wireIn ++ ins ++ [t.block.resp])
      ∧ (∀ (ins rest : List Byte) (b : Byte), s.env.answers.items = ins ++ b :: rest → ins.length = 8 →
          t.block.resp = b)
      ∧ t.mem = s.mem

/-- R152, R156: under a healthy peripheral that answers in time, CMD53R completes OK whatever the link partner
answers, with the bytes received during the payload parts in the buffer (memory is in its canonical form, which every
step keeps). -/
def Obligations.Cmd53ReadCompletes : Prop :=
  ∀ (s : State) (buf size : Word), s.Ready → s.staleFits → s.periph.rx.length < 2 ^ 32 → s.healthy → s.mem.wf = true →
    (Instr.cmd53r buf size).wellFormed = true →
    ∃ t, exec (.cmd53r buf size) s = .next t ∧ t.busy = false ∧ t.block.status = .ok
      ∧ t.wireOut = s.wireOut ++ cmd53Image true (List.replicate size.toNat 0xFF)
      ∧ ∃ ins : List Byte, t.wireIn = s.wireIn ++ ins
        ∧ t.mem.bytes buf.toNat size.toNat = cmd53Payload size.toNat ins

/-- R155, R156: the same for CMD53W, with the write image of the buffer on the link. -/
def Obligations.Cmd53WriteCompletes : Prop :=
  ∀ (s : State) (buf size : Word), s.Ready → s.staleFits → s.periph.rx.length < 2 ^ 32 → s.healthy → s.env.race = false →
    (Instr.cmd53w buf size).wellFormed = true →
    ∃ t, exec (.cmd53w buf size) s = .next t ∧ t.busy = false ∧ t.block.status = .ok
      ∧ t.wireOut = s.wireOut ++ cmd53Image false (s.mem.bytes buf.toNat size.toNat)
      ∧ t.mem = s.mem

/-! ## A peripheral that does not answer -/

/-- R112, R174, R176: under a stuck peripheral with POLL_LIMIT a number, a request that moves any byte ends
DEVICE_NOT_RESPONDING at the RXE wait of its first burst, with POLL_LIMIT polls counted, no byte on the link, memory
unchanged, and the started frame still there. -/
def Obligations.StuckPeripheralEndsDeviceNotResponding : Prop :=
  ∀ (i : Instr) (s : State) (n : Nat), s.Ready → s.staleFits → s.stuck → s.cfg.pollLimit = some n →
    i.wellFormed = true → (i.usesBuffer = true → i.size ≠ 0) →
    ∃ t, exec i s = .next t ∧ t.busy = false ∧ t.block.status = .deviceNotResponding
      ∧ t.block.polls.toNat = n ∧ t.wireOut = s.wireOut ∧ t.mem = s.mem
      ∧ (∃ f, t.periph.frame = some f ∧ f.i = 0)
      ∧ ctlValue t.cfg t.periph &&& t.cfg.xchMask = t.cfg.xchMask

/-- R112, R211: with POLL_LIMIT = UNBOUNDED the same request never ends: it is still running after any number of
steps, each of which is a bounded run of it (assumption 2). -/
def Obligations.StuckPeripheralHangsWhenPollsAreUnbounded : Prop :=
  ∀ (i : Instr) (s : State) (k : Nat), s.Ready → s.stuck → s.cfg.pollLimit = none →
    i.wellFormed = true → (i.usesBuffer = true → i.size ≠ 0) →
    ∃ t u, exec i s = .next t ∧ Host.Core.run Sys2Proof.core k t = .next u
      ∧ State.busy u = true ∧ State.wireOut u = s.wireOut

/-! ## Frames -/

/-- R32, R77, R180: whatever a request does, it leaves the context flags, the interrupt and GPIO collaborators, the
configuration and the host's other moves as they were. -/
def Obligations.RequestsKeepFlagsAndCollaborators : Prop :=
  ∀ (i : Instr) (s t : State), s.env.resets = [] → exec i s = .next t →
    t.ctx = s.ctx ∧ t.irq = s.irq ∧ t.gpio = s.gpio ∧ t.cfg = s.cfg
    ∧ t.env.inbox = s.env.inbox ∧ t.env.race = s.env.race

/-- R62, R121, R145, R155: SEND, CMD0, CMD53W and the reserved ops store to no byte of memory. -/
def Obligations.SendingRequestsKeepMemory : Prop :=
  ∀ (i : Instr) (s t : State) (buf size : Word),
    i = .send buf size ∨ i = .cmd0 buf size ∨ i = .cmd53w buf size ∨ i = .rsv5 buf size ∨ i = .rsv6 buf size
      ∨ i = .rsv7 buf size →
    exec i s = .next t → s.busy = false →
    ∀ a, t.mem.read a = s.mem.read a

/-- R60, R62, R128, R152: RECV and CMD53R store only to the bytes of the Transfer Buffer. -/
def Obligations.ReceivingRequestsKeepMemoryOutsideTheBuffer : Prop :=
  ∀ (i : Instr) (s t : State) (buf size : Word),
    i = .recv buf size ∨ i = .cmd53r buf size →
    exec i s = .next t → s.busy = false →
    ∀ a, a < buf.toNat ∨ buf.toNat + size.toNat ≤ a → t.mem.read a = s.mem.read a

/-- R20, R125, R128, R145, R152, R155: the working registers a request does not use keep their values: `cur`, `rem`,
`chunk` and `hdr` but for CMD53, `resp` but for CMD0; and every request leaves its own op, buf and size in place
(R50). -/
def Obligations.RequestsKeepTheRegistersTheyDoNotUse : Prop :=
  ∀ (i : Instr) (s t : State), s.busy = false → s.env.resets = [] → exec i s = .next t →
    t.block.op = i.op ∧ t.block.buf = i.buf ∧ t.block.size = i.size
    ∧ (i.op ≠ 0b011#3 → i.op ≠ 0b100#3 →
        t.block.cur = s.block.cur ∧ t.block.rem = s.block.rem ∧ t.block.chunk = s.block.chunk
        ∧ t.block.hdr = s.block.hdr)
    ∧ (i.op ≠ 0b010#3 → t.block.resp = s.block.resp)

/-- R99, R100, R126: no request changes a bit of CTL outside FL and XCH. -/
def Obligations.RequestsKeepTheOtherBitsOfCtl : Prop :=
  ∀ (i : Instr) (s t : State), exec i s = .next t →
    ctlValue t.cfg t.periph &&& ~~~(Config.flMask ||| t.cfg.xchMask)
      = ctlValue s.cfg s.periph &&& ~~~(Config.flMask ||| s.cfg.xchMask)

/-- R51, R60, R62: SEND and CMD53W read the bytes of the Transfer Buffer from buf on, each once, in increasing order,
all of them when they end OK, and write none. -/
def Obligations.SendingRequestsReadTheBufferInOrder : Prop :=
  ∀ (i : Instr) (s t : State) (buf size : Word), i = .send buf size ∨ i = .cmd53w buf size →
    s.busy = false → s.env.resets = [] → exec i s = .next t →
    ∃ k, k ≤ size.toNat
      ∧ t.readAddrs = s.readAddrs ++ (List.range k).map (fun j => buf.toNat + j)
      ∧ t.writeAddrs = s.writeAddrs
      ∧ (t.busy = false → t.block.status = .ok → k = size.toNat)

/-- R51, R60, R62: RECV and CMD53R write the bytes of the Transfer Buffer from buf on, each once, in increasing order,
all of them when they end OK, and read none (R83, R84: CMD0 and the reserved ops access no byte). -/
def Obligations.ReceivingRequestsWriteTheBufferInOrder : Prop :=
  ∀ (i : Instr) (s t : State) (buf size : Word), s.busy = false → s.env.resets = [] →
    exec i s = .next t →
    (i = .recv buf size ∨ i = .cmd53r buf size →
      ∃ k, k ≤ size.toNat
        ∧ t.writeAddrs = s.writeAddrs ++ (List.range k).map (fun j => buf.toNat + j)
        ∧ t.readAddrs = s.readAddrs
        ∧ (t.busy = false → t.block.status = .ok → k = size.toNat))
    ∧ (i = .cmd0 buf size ∨ i = .rsv5 buf size ∨ i = .rsv6 buf size ∨ i = .rsv7 buf size →
      t.writeAddrs = s.writeAddrs ∧ t.readAddrs = s.readAddrs)

/-- R113, R122, R129, R145, R151, R158, R215: a request whose waits all succeed, from an empty RX FIFO, makes the
register accesses of its bursts in the one order of R113, with the STA polls left out; so SEND and RECV make the same
sequence for the same size. -/
def Obligations.RequestsMakeTheirRegisterAccessesInOrder : Prop :=
  ∀ (i : Instr) (s t : State), s.Ready → s.periph.rx = [] → exec i s = .next t → t.busy = false →
    t.block.status = .ok ∨ t.block.status = .protocolMismatch →
    t.mmioShape = s.mmioShape ++ requestShape i

/-- R103: the wire length of a request that completes OK, and of one that ends ILLEGAL_REQUEST. -/
def Obligations.WireLengthOfEachRequest : Prop :=
  ∀ (i : Instr) (s t : State), s.Ready → exec i s = .next t → t.busy = false →
    (t.block.status = .ok → t.wireOut.length = s.wireOut.length + wireLength i)
    ∧ (t.block.status = .illegalRequest → t.wireOut = s.wireOut)

/-! ## What a request does not depend on -/

/-- R32, R180: no request reads a context flag, the interrupt collaborator or a GPIO line: with other values there,
the outcome is the same but for those values, which are kept. -/
def Obligations.RequestsDoNotReadFlagsOrCollaborators : Prop :=
  ∀ (i : Instr) (s : State) (c : Ctx) (q : Irq) (g : Gpio), s.env.resets = [] →
    exec i (((s.withCtx c).withIrq q).withGpio g)
      = andThen (exec i s) fun t => .next (((t.withCtx c).withIrq q).withGpio g)

/-- R83: CMD0 reads neither buf nor size: with other operands the outcome is the same but for the two registers that
acceptance loads (R50), and it accesses no byte of memory. -/
def Obligations.Cmd0IgnoresItsOperands : Prop :=
  ∀ (s : State) (buf size buf' size' : Word), s.busy = false → s.env.resets = [] →
    (exec (.cmd0 buf' size') s
      = andThen (exec (.cmd0 buf size) s) fun t =>
          .next (t.withBlock { t.block with buf := buf', size := size' }))
    ∧ ∀ t, exec (.cmd0 buf size) s = .next t → t.readAddrs = s.readAddrs ∧ t.writeAddrs = s.writeAddrs

/-! ## Waits and the drain -/

/-- R112, R174: with no frame running, so that what the test reads stays as it is, a wait whose test fails makes
POLL_LIMIT reads of STA, counts them, makes no other access and ends the request DEVICE_NOT_RESPONDING, and a wait whose
test holds goes on after one read. A wait for RX data of a frame that takes no step during the first f polls, f below
POLL_LIMIT, and ends its word before the next, fails f times and then holds: f + 1 reads of STA. The tick counts, one
tick a poll and one more for the raise, are the model's choice of actions and no rule's (assumption 1). -/
def Obligations.WaitsPollStaUntilTheirTestHolds : Prop :=
  ∀ s : State, s.busy = true → s.cfg.wf = true → s.env.resets = [] →
    s.block.phase = .start → s.block.polls = 0 →
    (s.periph.frame = none →
      (s.block.wte = .b3Txe ∧ s.periph.tx ≠ []) ∨ (s.block.wte = .b5Words ∧ s.cfg.txDepth ≤ s.periph.tx.length)
        ∨ (s.block.wte = .b7Rx ∧ s.periph.rx = []) →
      ∀ n, s.cfg.pollLimit = some n →
        ∃ (t : State) (es : List Event), runTicks (n + 1) s = .next t ∧ t.busy = false
          ∧ t.block.status = .deviceNotResponding ∧ t.block.polls.toNat = n
          ∧ t.trace = s.trace ++ es ++ [.complete .deviceNotResponding]
          ∧ es.length = n ∧ ∀ e ∈ es, ∃ v, e = .mmioRead .sta v)
    ∧ (s.periph.frame = none →
      (s.block.wte = .b3Txe ∧ s.periph.tx = []) ∨ (s.block.wte = .b5Words ∧ s.periph.tx.length < s.cfg.txDepth)
        ∨ (s.block.wte = .b7Rx ∧ s.periph.rx ≠ []) →
      ∃ (t : State) (v : Word), tick s = .next t ∧ t.busy = true ∧ t.block.polls = 0
        ∧ t.trace = s.trace ++ [.mmioRead .sta v]
        ∧ (s.block.wte = .b3Txe → t.block.wte = .b4Fl)
        ∧ (s.block.wte ≠ .b3Txe → t.block.wte = s.block.wte ∧ t.block.phase ≠ .start))
    ∧ (∀ (f : Nat) (fr : Frame) (more : List Nat),
      s.block.wte = .b7Rx → s.periph.rx = [] → s.periph.frame = some fr → fr.i < fr.n → s.periph.tx ≠ [] →
      s.env.sched.items = List.replicate f 0 ++ min (4 - fr.i % 4) (fr.n - fr.i) :: more →
      f < 2 ^ 32 → (∀ n, s.cfg.pollLimit = some n → f < n) →
      ∃ (t : State) (vs : List Word), runTicks (f + 1) s = .next t ∧ t.busy = true
        ∧ t.block.wte = .b7Rx ∧ t.block.phase = .last ∧ t.block.polls.toNat = f ∧ t.periph.rx.length = 1
        ∧ vs.length = f + 1 ∧ t.mmioEvents = s.mmioEvents ++ vs.map (Event.mmioRead .sta))

/-- R115: a drain that finds k stale words makes k reads of RXD and k + 1 reads of STA and goes on to the TXE wait when
k is within POLL_LIMIT; with more words than that it gives up after POLL_LIMIT of them. No drained byte reaches memory
or `resp`. The read counts are R115's; the tick counts, one tick an access and one more for the raise, are the model's choice
of actions and no rule's (assumption 1). -/
def Obligations.DrainDiscardsTheStaleWords : Prop :=
  ∀ s : State, s.busy = true → s.cfg.wf = true → s.periph.frame = none → s.env.resets = [] →
    s.block.wte = .b2Drain → s.block.phase = .start → s.block.polls = 0 →
    (s.staleFits →
      ∃ (t : State) (es : List Event), runTicks (2 * s.periph.rx.length + 1) s = .next t ∧ t.busy = true
        ∧ t.block.wte = .b3Txe ∧ t.periph.rx = [] ∧ t.periph.tx = s.periph.tx ∧ t.mem = s.mem
        ∧ t.block.resp = s.block.resp ∧ t.trace = s.trace ++ es
        ∧ es.filterMap Event.shape? = List.replicate s.periph.rx.length (.rxd, false)
        ∧ es.length = 2 * s.periph.rx.length + 1 ∧ es.filterMap Event.mmio? = es)
    ∧ (∀ n, s.cfg.pollLimit = some n → n < s.periph.rx.length →
      ∃ (t : State) (es : List Event), runTicks (2 * n + 2) s = .next t ∧ t.busy = false
        ∧ t.block.status = .deviceNotResponding ∧ t.periph.rx = s.periph.rx.drop n ∧ t.mem = s.mem
        ∧ t.block.resp = s.block.resp ∧ t.trace = s.trace ++ es ++ [.complete .deviceNotResponding]
        ∧ es.filterMap Event.shape? = List.replicate n (.rxd, false)
        ∧ es.length = 2 * n + 1 ∧ es.filterMap Event.mmio? = es)

/-! ## The peripheral's registers and frames -/

/-- R41, R101, R206: whatever the undescribed bits of STA read as, each test of a value read from STA says what the
FIFOs hold. -/
def Obligations.StaTestsSayWhatTheFifosHold : Prop :=
  ∀ (c : Config) (p : Periph) (other : Word), c.wf = true →
    StaTest.holds c .txe (staValue c p other) = decide (p.tx = [])
    ∧ StaTest.holds c .notTxf (staValue c p other) = decide (p.tx.length < c.txDepth)
    ∧ StaTest.holds c .notRxe (staValue c p other) = decide (p.rx ≠ [])

/-- R40, R45, R70: with no frame running, a CTL write that takes XCH from 0 to XCH_MASK starts a frame of FL + 1 bytes
with none exchanged, and every other write starts none: one that leaves XCH, one that clears it, and one that sets part
of XCH_MASK or finds part of it set (of these last two the spec says nothing: assumption 13). CTL reads back as written
but for its FIFO-clear bits, and a write that sets none of those leaves the FIFOs. -/
def Obligations.CtlWriteStartsAFrameWhenXchIsSet : Prop :=
  ∀ (s : State) (v : Word), s.cfg.wf = true → s.periph.frame = none →
    ctlValue s.cfg (writeCtl v s).periph = v &&& ~~~clearMask s.cfg
    ∧ (s.periph.ctl &&& s.cfg.xchMask = 0 → v &&& s.cfg.xchMask = s.cfg.xchMask →
        ∃ f, (writeCtl v s).periph.frame = some f ∧ f.n = (v >>> 16).toNat % 256 + 1 ∧ f.i = 0)
    ∧ (¬ (s.periph.ctl &&& s.cfg.xchMask = 0 ∧ v &&& s.cfg.xchMask = s.cfg.xchMask) →
        (writeCtl v s).periph.frame = none)
    ∧ (v &&& clearMask s.cfg = 0 →
        (writeCtl v s).periph.tx = s.periph.tx ∧ (writeCtl v s).periph.rx = s.periph.rx)

/-- R45, R65: a frame of n bytes that has its words in the TX FIFO, with room in the RX FIFO, sends the first n bytes
of its words in lane order, and appends RX words that hold the answered bytes in lane order; then no frame runs. -/
def Obligations.FrameSendsItsWordsInLaneOrder : Prop :=
  ∀ (s : State) (f : Frame) (ws more : List Word),
    s.periph.frame = some f → f.i = 0 → 1 ≤ f.n → s.periph.disturbed = false →
    s.periph.tx = ws ++ more → ws.length = (f.n + 3) / 4 →
    s.periph.rx.length + ws.length ≤ s.cfg.rxDepth →
    ∃ (t : State) (ins : List Byte) (rs : List Word), periphRun f.n s = .next t
      ∧ t.periph.frame = none ∧ t.periph.tx = more ∧ t.periph.rx = s.periph.rx ++ rs
      ∧ rs.length = ws.length ∧ ins.length = f.n
      ∧ t.wireOut = s.wireOut ++ (ws.flatMap fun w => (List.range 4).map (byteOf w)).take f.n
      ∧ t.wireIn = s.wireIn ++ ins
      ∧ (rs.flatMap fun w => (List.range 4).map (byteOf w)).take f.n = ins

/-- R42, R43, R44: a TXD write below the depth appends to the TX FIFO; an RXD read takes the head of the RX FIFO. At
the ends, where 93_implementation_defined.md has a model that reaches one record a fault, the model faults
(assumption 17). -/
def Obligations.FifoPortsAppendAndTakeTheHead : Prop :=
  ∀ (s : State) (v : Word),
    (s.periph.tx.length < s.cfg.txDepth →
      ∃ t, writeTxd v s = .next t ∧ t.periph.tx = s.periph.tx ++ [v] ∧ t.periph.rx = s.periph.rx
        ∧ t.periph.ctl = s.periph.ctl ∧ t.mem = s.mem)
    ∧ (s.cfg.txDepth ≤ s.periph.tx.length → writeTxd v s = .fault .txOverrun)
    ∧ (∀ w rest, s.periph.rx = w :: rest →
      ∃ t, readRxd s = .next (w, t) ∧ t.periph.rx = rest ∧ t.periph.tx = s.periph.tx
        ∧ t.periph.ctl = s.periph.ctl ∧ t.mem = s.mem)
    ∧ (s.periph.rx = [] → readRxd s = .fault .rxUnderrun)

/-! ## Words and headers -/

/-- R65, R102, R117: byte k of a FIFO word is the k-th in wire order, for packing and for unpacking. -/
def Obligations.WordLanesAreInWireOrder : Prop :=
  ∀ (b0 b1 b2 b3 : Byte) (w : Word),
    setByte (setByte (setByte (setByte w 0 b0) 1 b1) 2 b2) 3 b3 = b3 ++ (b2 ++ (b1 ++ b0))
    ∧ byteOf (b3 ++ (b2 ++ (b1 ++ b0)) : BitVec (8 + (8 + (8 + 8)))) 0 = b0
    ∧ byteOf (b3 ++ (b2 ++ (b1 ++ b0)) : BitVec (8 + (8 + (8 + 8)))) 1 = b1
    ∧ byteOf (b3 ++ (b2 ++ (b1 ++ b0)) : BitVec (8 + (8 + (8 + 8)))) 2 = b2
    ∧ byteOf (b3 ++ (b2 ++ (b1 ++ b0)) : BitVec (8 + (8 + (8 + 8)))) 3 = b3

/-- R64, R92, R93, R98: the header of a chunk of L bytes is the template of its direction with L in the size field,
high byte first, and the field decodes to L. -/
def Obligations.HeaderCarriesTheChunkLength : Prop :=
  ∀ (n : Nat), n ≤ 511 →
    ∃ hi lo : Byte, hi.toNat * 256 + lo.toNat = n
      ∧ (header true (BitVec.ofNat 9 n)).toList
          = [0xFF, 0xFF, 0xFF, 0x75, 0x10, 0x00, hi, lo, 0x01, 0xFF, 0xFF, 0xFF, 0xFF, 0xFF]
      ∧ (header false (BitVec.ofNat 9 n)).toList
          = [0xFF, 0xFF, 0xFF, 0x75, 0x90, 0x00, hi, lo, 0x01, 0xFF, 0xFF, 0xFF, 0xFF, 0xFE]

/-- R111, R150, R157: the burst and chunk lengths of n bytes add up to n, are never 0, never above the limit, and are
ceil(n/32) and ceil(n/511) in number. -/
def Obligations.SplitsPartitionTheBytes : Prop :=
  ∀ n : Nat,
    (burstLens n).sum = n ∧ (∀ b ∈ burstLens n, 1 ≤ b ∧ b ≤ 32) ∧ (burstLens n).length = (n + 31) / 32
    ∧ (chunkLens n).sum = n ∧ (∀ c ∈ chunkLens n, 1 ≤ c ∧ c ≤ 511) ∧ (chunkLens n).length = (n + 510) / 511

/-! ## Host, interrupt and GPIO -/

/-- R32, R33: while the block is idle the host writes a context flag, and nothing else changes but that the move is
made; `ctx.cs_forced_high` is exported unchanged. -/
def Obligations.HostWritesContextFlagsWhileIdle : Prop :=
  ∀ (s : State) (v : Bool) (rest : List HostMove), s.busy = false → s.periph.frame = none →
    (s.env.inbox = .setReady v :: rest →
      step s = .next ((s.withEnv { s.env with inbox := rest }).withCtx { s.ctx with ready := v }))
    ∧ (s.env.inbox = .setCsForced v :: rest →
      ∃ t, step s = .next t ∧ csOverride t = v
        ∧ t = (s.withEnv { s.env with inbox := rest }).withCtx { s.ctx with csForcedHigh := v })

/-- R180, R181: while the block is idle, ENABLE, DISABLE, ACKNOWLEDGE and STATUS act on the two bits as the rule says,
a chip-ready event sets `pending` whatever `enabled`, and nothing else of the machine changes but that STATUS reports
`pending`; both bits are 0 at reset. -/
def Obligations.InterruptCollaboratorFollowsItsOps : Prop :=
  ∀ (s : State) (m : HostMove) (rest : List HostMove), s.busy = false → s.periph.frame = none →
    s.env.inbox = m :: rest →
    (m = .irq .enable →
      step s = .next ((s.withEnv { s.env with inbox := rest }).withIrq ⟨true, s.irq.pending⟩))
    ∧ (m = .irq .disable →
      step s = .next ((s.withEnv { s.env with inbox := rest }).withIrq ⟨false, s.irq.pending⟩))
    ∧ (m = .irq .acknowledge →
      step s = .next ((s.withEnv { s.env with inbox := rest }).withIrq ⟨s.irq.enabled, false⟩))
    ∧ (m = .irq .status →
      step s = .next ((s.withEnv { s.env with inbox := rest }).log (.irqStatus s.irq.pending)))
    ∧ (m = .chipReady →
      step s = .next ((s.withEnv { s.env with inbox := rest }).withIrq ⟨s.irq.enabled, true⟩))
    ∧ (irqSignal s = true ↔ s.irq.enabled = true ∧ s.irq.pending = true)
    ∧ State.reset.irq = ⟨false, false⟩

/-- R182: while the block is idle, ENABLE and DISABLE set the direction of the one line, HIGH and LOW its level, and
the other lines, and the rest of the machine, stay as they were. -/
def Obligations.GpioOpsActOnOneLine : Prop :=
  ∀ (s : State) (op : GpioOp) (rest : List HostMove) (new old : GpioLine), s.busy = false →
    s.periph.frame = none →
    (op = .enable ∧ new = ⟨true, old.level⟩ ∨ op = .disable ∧ new = ⟨false, old.level⟩
      ∨ op = .high ∧ new = ⟨old.output, true⟩ ∨ op = .low ∧ new = ⟨old.output, false⟩) →
    (s.env.inbox = .gpio op .resetD :: rest → s.gpio.resetD = old →
      step s = .next ((s.withEnv { s.env with inbox := rest }).withGpio { s.gpio with resetD := new }))
    ∧ (s.env.inbox = .gpio op .resetA :: rest → s.gpio.resetA = old →
      step s = .next ((s.withEnv { s.env with inbox := rest }).withGpio { s.gpio with resetA := new }))
    ∧ (s.env.inbox = .gpio op .power :: rest → s.gpio.power = old →
      step s = .next ((s.withEnv { s.env with inbox := rest }).withGpio { s.gpio with power := new }))

/-! ## What an interrupted receive has stored, and the FIFO-clear bits -/

/-- R119, R128, R176: however a RECV has come to its end, or while it still runs, it has stored a first part of the
bytes received, in order, at buf on, each once, and every other byte keeps its old value; when it ended
DEVICE_NOT_RESPONDING, that part covers the bursts completed before the failing one. -/
def Obligations.RecvHasStoredAFirstPartOfTheReceivedBytes : Prop :=
  ∀ (s t : State) (buf size : Word), s.Ready → s.mem.wf = true → exec (.recv buf size) s = .next t →
    ∃ (k : Nat) (ins : List Byte), k ≤ size.toNat ∧ k ≤ ins.length ∧ t.wireIn = s.wireIn ++ ins
      ∧ t.mem.bytes buf.toNat k = ins.take k
      ∧ t.writeAddrs = s.writeAddrs ++ (List.range k).map (fun j => buf.toNat + j)
      ∧ (∀ a, a < buf.toNat ∨ buf.toNat + k ≤ a → t.mem.read a = s.mem.read a)
      ∧ (t.busy = false → t.block.status = .deviceNotResponding → t.block.wOff.toNat ≤ k)

/-- R151, R152, R176: the same for CMD53R, with the bytes received during the payload parts; when it ended
DEVICE_NOT_RESPONDING, the part stored covers the chunks completed, and the bursts completed of the payload part that
failed. -/
def Obligations.Cmd53ReadHasStoredAFirstPartOfThePayload : Prop :=
  ∀ (s t : State) (buf size : Word), s.Ready → s.mem.wf = true → exec (.cmd53r buf size) s = .next t →
    ∃ (k : Nat) (ins : List Byte), k ≤ size.toNat ∧ k ≤ (cmd53Payload size.toNat ins).length
      ∧ t.wireIn = s.wireIn ++ ins
      ∧ t.mem.bytes buf.toNat k = (cmd53Payload size.toNat ins).take k
      ∧ t.writeAddrs = s.writeAddrs ++ (List.range k).map (fun j => buf.toNat + j)
      ∧ (∀ a, a < buf.toNat ∨ buf.toNat + k ≤ a → t.mem.read a = s.mem.read a)
      ∧ (t.busy = false → t.block.status = .deviceNotResponding →
          t.block.cur.toNat ≤ k ∧ (t.block.wSrc = .buf → t.block.cur.toNat + t.block.wOff.toNat ≤ k))

/-- R40: a CTL write that sets all of RFC empties the RX FIFO, one that sets all of TFC empties the TX FIFO, and neither
touches the other FIFO; both fields read as 0 afterwards. That a write of some but not all of a field's ones clears
nothing is the model's reading (assumption 15). -/
def Obligations.CtlWriteEmptiesTheFifoItClears : Prop :=
  ∀ (s : State) (v : Word),
    (writeCtl v s).periph.rx
        = (if s.cfg.rfcMask ≠ 0 ∧ v &&& s.cfg.rfcMask = s.cfg.rfcMask then [] else s.periph.rx)
    ∧ (writeCtl v s).periph.tx
        = (if s.cfg.tfcMask ≠ 0 ∧ v &&& s.cfg.tfcMask = s.cfg.tfcMask then [] else s.periph.tx)
    ∧ ctlValue s.cfg (writeCtl v s).periph &&& clearMask s.cfg = 0

/-- R216: a request that moves bytes, accepted while a frame still runs or the TX FIFO holds words, leaves the peripheral
disturbed through every tick to its end; and while it is disturbed every exchange on the link is free: the bytes out and
in are fresh unknowns, whatever word is being shifted and whatever the link partner would answer. Accepted with the
peripheral idle, the request finds it undisturbed, and then an exchange puts the word's byte on the link and takes the
link partner's. (The free values are the model's form of any value: assumptions 9 and 16.) -/
def Obligations.RequestsOnAnUnsettledPeripheralHaveFreeLinkBytes : Prop :=
  (∀ (i : Instr) (s : State), movesBytes i = true →
    ((accept i.op i.buf i.size s).periph.disturbed = true ↔ s.periph.frame ≠ none ∨ s.periph.tx ≠ []))
  ∧ (∀ s t : State, s.periph.disturbed = true → tick s = .next t → t.periph.disturbed = true)
  ∧ (∀ (i : Instr) (s t : State), movesBytes i = true → s.busy = false →
      (s.periph.frame ≠ none ∨ s.periph.tx ≠ []) → exec i s = .next t → t.periph.disturbed = true)
  ∧ (∀ (s : State) (b : Byte), s.periph.disturbed = true →
      (exchange b s).1 = (Config.freeByte s.env.draws, Config.freeByte (s.env.draws + 1)))
  ∧ ∀ (s : State) (b : Byte), s.periph.disturbed = false →
      (exchange b s).1.1 = b ∧ ∀ x rest, s.env.answers.items = x :: rest → (exchange b s).1.2 = x

/-- R112: each poll of a wait reads STA once, after the steps the peripheral takes before it. When the condition holds of
the FIFOs then, the wait is over and the count stays; when it does not, the poll is counted. A spent budget ends the request
DEVICE_NOT_RESPONDING (R112, R170, R174). That this end is the next action (phase giveUp), so that the poll itself leaves
the block busy and the peripheral may take steps in between, is the model's choice (assumptions 1 and 27): R13 and R112 say
only that the request ends at once. -/
def Obligations.EachPollOfAWaitReadsStaOnce : Prop :=
  ∀ s u : State, s.busy = true → s.cfg.wf = true → s.env.resets = [] → breathe s = .next u →
    (s.block.phase = .start → s.block.wte = .b3Txe ∨ s.block.wte = .b5Words ∨ s.block.wte = .b7Rx →
      ∃ (t : State) (v : Word), tick s = .next t ∧ t.busy = true ∧ t.trace = u.trace ++ [.mmioRead .sta v]
        ∧ (waitHolds u → t.block.polls = s.block.polls
            ∧ (s.block.wte = .b3Txe → t.block.wte = .b4Fl)
            ∧ (s.block.wte ≠ .b3Txe → t.block.wte = s.block.wte ∧ t.block.phase ≠ .start ∧ t.block.phase ≠ .giveUp))
        ∧ (¬ waitHolds u → t.block.polls = s.block.polls + 1 ∧ t.block.wte = s.block.wte
            ∧ ((∃ n, s.cfg.pollLimit = some n ∧ n ≤ (s.block.polls + 1).toNat) → t.block.phase = .giveUp)
            ∧ (¬ (∃ n, s.cfg.pollLimit = some n ∧ n ≤ (s.block.polls + 1).toNat) → t.block.phase = .start)))
    ∧ (s.block.phase = .giveUp →
        s.block.wte = .b2Drain ∨ s.block.wte = .b3Txe ∨ s.block.wte = .b5Words ∨ s.block.wte = .b7Rx →
        tick s = .next (endRequest .deviceNotResponding u))

/-- R173, R176: a request that is not one the block runs leaves the peripheral to itself, a running frame included: what
happens is the acceptance (R50), the steps the peripheral takes before CHECK, and the end with ILLEGAL_REQUEST. -/
def Obligations.IllegalRequestsLeaveThePeripheralToItself : Prop :=
  ∀ (i : Instr) (s : State), i.wellFormed = false → s.busy = false → s.env.resets = [] →
    exec i s
      = andThen (breathe (s.withBlock
          { s.block with op := i.op, buf := i.buf, size := i.size, cfl := .check, wte := .none }))
          fun u => .next (endRequest .illegalRequest u)
end

