-- ==== Sys2Proof/Laws/Memory.lean ====
section
/-!
SUPPORT. Buffer memory: a read after a write, and the canonical form under a write.
-/
namespace Sys2Proof.Machine

@[simp] theorem Memory.read_nil (a : Nat) : Memory.read [] a = Memory.unlisted := rfl

theorem Memory.read_cons (c : Host.Cell) (m : Memory) (a : Nat) :
    Memory.read (c :: m) a = if c.1 = a then c.2 else Memory.read m a := rfl

theorem Memory.wf_cons (c : Host.Cell) (m : Memory) :
    Memory.wf (c :: m) = true ↔
      c.1 < 2 ^ 32 ∧ c.2 ≠ Memory.unlisted ∧ (∀ d ∈ m, c.1 < d.1) ∧ Memory.wf m = true := by
  simp [Memory.wf, and_assoc]

/-- Below every listed address nothing is listed. -/
theorem Memory.read_of_lt (m : Memory) (a : Nat) (h : ∀ d ∈ m, a < d.1) :
    Memory.read m a = Memory.unlisted := by
  induction m with
  | nil => rfl
  | cons c m ih =>
    have hc := h c (by simp)
    rw [Memory.read_cons, if_neg (by omega)]
    exact ih fun d hd => h d (by simp [hd])

/-- A write leaves every other address as it was. -/
theorem Memory.read_write_ne (m : Memory) {a b : Nat} (v : Byte) (h : b ≠ a) :
    Memory.read (Memory.write m a v) b = Memory.read m b := by
  induction m with
  | nil =>
    unfold Memory.write
    split
    · rfl
    · rw [Memory.read_cons, if_neg (by simpa using Ne.symm h)]
  | cons c m ih =>
    unfold Memory.write
    split
    · split
      · rfl
      · rw [Memory.read_cons, if_neg (by simpa using Ne.symm h)]
    · split
      · rename_i hac
        have hcb : c.1 ≠ b := by rw [← hac]; exact Ne.symm h
        split
        · rw [Memory.read_cons, if_neg hcb]
        · rw [Memory.read_cons, Memory.read_cons, if_neg (by simpa using Ne.symm h), if_neg hcb]
      · rw [Memory.read_cons, Memory.read_cons, ih]

/-- A read after a write to the same address gives the value written. -/
theorem Memory.read_write_self (m : Memory) (a : Nat) (v : Byte) (hm : Memory.wf m = true) :
    Memory.read (Memory.write m a v) a = v := by
  induction m with
  | nil =>
    unfold Memory.write
    split
    · rename_i h; simp [h]
    · simp [Memory.read_cons]
  | cons c m ih =>
    obtain ⟨_, _, hlt, hwf⟩ := (Memory.wf_cons c m).mp hm
    unfold Memory.write
    split
    · rename_i hac
      split
      · rename_i hv
        rw [Memory.read_of_lt, hv]
        intro d hd
        rcases List.mem_cons.mp hd with rfl | hd
        · exact hac
        · exact lt_trans hac (hlt d hd)
      · simp [Memory.read_cons]
    · split
      · rename_i hac
        split
        · rename_i hv
          rw [Memory.read_of_lt, hv]
          intro d hd
          rw [hac]; exact hlt d hd
        · simp [Memory.read_cons]
      · rename_i hac
        rw [Memory.read_cons, if_neg (Ne.symm hac), ih hwf]

/-- The addresses listed after a write are those before it and the one written. -/
theorem Memory.mem_write (m : Memory) (a : Nat) (v : Byte) (d : Host.Cell)
    (hd : d ∈ Memory.write m a v) : d ∈ m ∨ d = (a, v) := by
  induction m with
  | nil =>
    unfold Memory.write at hd
    split at hd <;> simp_all
  | cons c m ih =>
    unfold Memory.write at hd
    split at hd
    · split at hd
      · exact .inl hd
      · rcases List.mem_cons.mp hd with rfl | hd
        · exact .inr rfl
        · exact .inl hd
    · split at hd
      · split at hd
        · exact .inl (List.mem_cons_of_mem _ hd)
        · rcases List.mem_cons.mp hd with rfl | hd
          · exact .inr rfl
          · exact .inl (List.mem_cons_of_mem _ hd)
      · rcases List.mem_cons.mp hd with rfl | hd
        · exact .inl (by simp)
        · rcases ih hd with h | h
          · exact .inl (List.mem_cons_of_mem _ h)
          · exact .inr h

/-- A write keeps the canonical form. -/
theorem Memory.write_wf (m : Memory) (a : Nat) (v : Byte) (hm : Memory.wf m = true) (ha : a < 2 ^ 32) :
    Memory.wf (Memory.write m a v) = true := by
  induction m with
  | nil =>
    unfold Memory.write
    split
    · rfl
    · rename_i hv
      exact (Memory.wf_cons _ _).mpr ⟨ha, hv, by simp, rfl⟩
  | cons c m ih =>
    obtain ⟨hc, hcv, hlt, hwf⟩ := (Memory.wf_cons c m).mp hm
    unfold Memory.write
    split
    · rename_i hac
      split
      · exact hm
      · rename_i hv
        refine (Memory.wf_cons _ _).mpr ⟨ha, hv, ?_, hm⟩
        intro d hd
        rcases List.mem_cons.mp hd with rfl | hd
        · exact hac
        · exact lt_trans hac (hlt d hd)
    · split
      · rename_i hac
        split
        · exact hwf
        · rename_i hv
          refine (Memory.wf_cons _ _).mpr ⟨ha, hv, ?_, hwf⟩
          intro d hd
          show a < d.1
          rw [hac]; exact hlt d hd
      · refine (Memory.wf_cons _ _).mpr ⟨hc, hcv, ?_, ih hwf⟩
        intro d hd
        rcases Memory.mem_write m a v d hd with h | rfl
        · exact hlt d h
        · show c.1 < a
          omega

end Sys2Proof.Machine
end

