-- ==== Sys2Proof/Laws/State.lean ====
section
/-!
SUPPORT. One lemma for each field of State under each named update, so that no proof unfolds a record update.
-/
namespace Sys2Proof.Machine

/-! ## withBlock -/

@[simp] theorem State.withBlock_cfg (s : State) (x : Block) : (s.withBlock x).cfg = s.cfg := rfl
@[simp] theorem State.withBlock_block (s : State) (x : Block) : (s.withBlock x).block = x := rfl
@[simp] theorem State.withBlock_ctx (s : State) (x : Block) : (s.withBlock x).ctx = s.ctx := rfl
@[simp] theorem State.withBlock_periph (s : State) (x : Block) : (s.withBlock x).periph = s.periph := rfl
@[simp] theorem State.withBlock_mem (s : State) (x : Block) : (s.withBlock x).mem = s.mem := rfl
@[simp] theorem State.withBlock_irq (s : State) (x : Block) : (s.withBlock x).irq = s.irq := rfl
@[simp] theorem State.withBlock_gpio (s : State) (x : Block) : (s.withBlock x).gpio = s.gpio := rfl
@[simp] theorem State.withBlock_env (s : State) (x : Block) : (s.withBlock x).env = s.env := rfl
@[simp] theorem State.withBlock_trace (s : State) (x : Block) : (s.withBlock x).trace = s.trace := rfl
@[simp] theorem State.withBlock_withBlock (s : State) (x y : Block) : (s.withBlock x).withBlock y = s.withBlock y := rfl
@[simp] theorem State.withBlock_self (s : State) : s.withBlock s.block = s := rfl

/-! ## withCtx -/

@[simp] theorem State.withCtx_cfg (s : State) (x : Ctx) : (s.withCtx x).cfg = s.cfg := rfl
@[simp] theorem State.withCtx_block (s : State) (x : Ctx) : (s.withCtx x).block = s.block := rfl
@[simp] theorem State.withCtx_ctx (s : State) (x : Ctx) : (s.withCtx x).ctx = x := rfl
@[simp] theorem State.withCtx_periph (s : State) (x : Ctx) : (s.withCtx x).periph = s.periph := rfl
@[simp] theorem State.withCtx_mem (s : State) (x : Ctx) : (s.withCtx x).mem = s.mem := rfl
@[simp] theorem State.withCtx_irq (s : State) (x : Ctx) : (s.withCtx x).irq = s.irq := rfl
@[simp] theorem State.withCtx_gpio (s : State) (x : Ctx) : (s.withCtx x).gpio = s.gpio := rfl
@[simp] theorem State.withCtx_env (s : State) (x : Ctx) : (s.withCtx x).env = s.env := rfl
@[simp] theorem State.withCtx_trace (s : State) (x : Ctx) : (s.withCtx x).trace = s.trace := rfl
@[simp] theorem State.withCtx_withCtx (s : State) (x y : Ctx) : (s.withCtx x).withCtx y = s.withCtx y := rfl
@[simp] theorem State.withCtx_self (s : State) : s.withCtx s.ctx = s := rfl

/-! ## withPeriph -/

@[simp] theorem State.withPeriph_cfg (s : State) (x : Periph) : (s.withPeriph x).cfg = s.cfg := rfl
@[simp] theorem State.withPeriph_block (s : State) (x : Periph) : (s.withPeriph x).block = s.block := rfl
@[simp] theorem State.withPeriph_ctx (s : State) (x : Periph) : (s.withPeriph x).ctx = s.ctx := rfl
@[simp] theorem State.withPeriph_periph (s : State) (x : Periph) : (s.withPeriph x).periph = x := rfl
@[simp] theorem State.withPeriph_mem (s : State) (x : Periph) : (s.withPeriph x).mem = s.mem := rfl
@[simp] theorem State.withPeriph_irq (s : State) (x : Periph) : (s.withPeriph x).irq = s.irq := rfl
@[simp] theorem State.withPeriph_gpio (s : State) (x : Periph) : (s.withPeriph x).gpio = s.gpio := rfl
@[simp] theorem State.withPeriph_env (s : State) (x : Periph) : (s.withPeriph x).env = s.env := rfl
@[simp] theorem State.withPeriph_trace (s : State) (x : Periph) : (s.withPeriph x).trace = s.trace := rfl
@[simp] theorem State.withPeriph_withPeriph (s : State) (x y : Periph) : (s.withPeriph x).withPeriph y = s.withPeriph y := rfl
@[simp] theorem State.withPeriph_self (s : State) : s.withPeriph s.periph = s := rfl

/-! ## withMem -/

@[simp] theorem State.withMem_cfg (s : State) (x : Memory) : (s.withMem x).cfg = s.cfg := rfl
@[simp] theorem State.withMem_block (s : State) (x : Memory) : (s.withMem x).block = s.block := rfl
@[simp] theorem State.withMem_ctx (s : State) (x : Memory) : (s.withMem x).ctx = s.ctx := rfl
@[simp] theorem State.withMem_periph (s : State) (x : Memory) : (s.withMem x).periph = s.periph := rfl
@[simp] theorem State.withMem_mem (s : State) (x : Memory) : (s.withMem x).mem = x := rfl
@[simp] theorem State.withMem_irq (s : State) (x : Memory) : (s.withMem x).irq = s.irq := rfl
@[simp] theorem State.withMem_gpio (s : State) (x : Memory) : (s.withMem x).gpio = s.gpio := rfl
@[simp] theorem State.withMem_env (s : State) (x : Memory) : (s.withMem x).env = s.env := rfl
@[simp] theorem State.withMem_trace (s : State) (x : Memory) : (s.withMem x).trace = s.trace := rfl
@[simp] theorem State.withMem_withMem (s : State) (x y : Memory) : (s.withMem x).withMem y = s.withMem y := rfl
@[simp] theorem State.withMem_self (s : State) : s.withMem s.mem = s := rfl

/-! ## withIrq -/

@[simp] theorem State.withIrq_cfg (s : State) (x : Irq) : (s.withIrq x).cfg = s.cfg := rfl
@[simp] theorem State.withIrq_block (s : State) (x : Irq) : (s.withIrq x).block = s.block := rfl
@[simp] theorem State.withIrq_ctx (s : State) (x : Irq) : (s.withIrq x).ctx = s.ctx := rfl
@[simp] theorem State.withIrq_periph (s : State) (x : Irq) : (s.withIrq x).periph = s.periph := rfl
@[simp] theorem State.withIrq_mem (s : State) (x : Irq) : (s.withIrq x).mem = s.mem := rfl
@[simp] theorem State.withIrq_irq (s : State) (x : Irq) : (s.withIrq x).irq = x := rfl
@[simp] theorem State.withIrq_gpio (s : State) (x : Irq) : (s.withIrq x).gpio = s.gpio := rfl
@[simp] theorem State.withIrq_env (s : State) (x : Irq) : (s.withIrq x).env = s.env := rfl
@[simp] theorem State.withIrq_trace (s : State) (x : Irq) : (s.withIrq x).trace = s.trace := rfl
@[simp] theorem State.withIrq_withIrq (s : State) (x y : Irq) : (s.withIrq x).withIrq y = s.withIrq y := rfl
@[simp] theorem State.withIrq_self (s : State) : s.withIrq s.irq = s := rfl

/-! ## withGpio -/

@[simp] theorem State.withGpio_cfg (s : State) (x : Gpio) : (s.withGpio x).cfg = s.cfg := rfl
@[simp] theorem State.withGpio_block (s : State) (x : Gpio) : (s.withGpio x).block = s.block := rfl
@[simp] theorem State.withGpio_ctx (s : State) (x : Gpio) : (s.withGpio x).ctx = s.ctx := rfl
@[simp] theorem State.withGpio_periph (s : State) (x : Gpio) : (s.withGpio x).periph = s.periph := rfl
@[simp] theorem State.withGpio_mem (s : State) (x : Gpio) : (s.withGpio x).mem = s.mem := rfl
@[simp] theorem State.withGpio_irq (s : State) (x : Gpio) : (s.withGpio x).irq = s.irq := rfl
@[simp] theorem State.withGpio_gpio (s : State) (x : Gpio) : (s.withGpio x).gpio = x := rfl
@[simp] theorem State.withGpio_env (s : State) (x : Gpio) : (s.withGpio x).env = s.env := rfl
@[simp] theorem State.withGpio_trace (s : State) (x : Gpio) : (s.withGpio x).trace = s.trace := rfl
@[simp] theorem State.withGpio_withGpio (s : State) (x y : Gpio) : (s.withGpio x).withGpio y = s.withGpio y := rfl
@[simp] theorem State.withGpio_self (s : State) : s.withGpio s.gpio = s := rfl

/-! ## withEnv -/

@[simp] theorem State.withEnv_cfg (s : State) (x : Env) : (s.withEnv x).cfg = s.cfg := rfl
@[simp] theorem State.withEnv_block (s : State) (x : Env) : (s.withEnv x).block = s.block := rfl
@[simp] theorem State.withEnv_ctx (s : State) (x : Env) : (s.withEnv x).ctx = s.ctx := rfl
@[simp] theorem State.withEnv_periph (s : State) (x : Env) : (s.withEnv x).periph = s.periph := rfl
@[simp] theorem State.withEnv_mem (s : State) (x : Env) : (s.withEnv x).mem = s.mem := rfl
@[simp] theorem State.withEnv_irq (s : State) (x : Env) : (s.withEnv x).irq = s.irq := rfl
@[simp] theorem State.withEnv_gpio (s : State) (x : Env) : (s.withEnv x).gpio = s.gpio := rfl
@[simp] theorem State.withEnv_env (s : State) (x : Env) : (s.withEnv x).env = x := rfl
@[simp] theorem State.withEnv_trace (s : State) (x : Env) : (s.withEnv x).trace = s.trace := rfl
@[simp] theorem State.withEnv_withEnv (s : State) (x y : Env) : (s.withEnv x).withEnv y = s.withEnv y := rfl
@[simp] theorem State.withEnv_self (s : State) : s.withEnv s.env = s := rfl

/-! ## log -/

@[simp] theorem State.log_cfg (s : State) (e : Event) : (s.log e).cfg = s.cfg := rfl
@[simp] theorem State.log_block (s : State) (e : Event) : (s.log e).block = s.block := rfl
@[simp] theorem State.log_ctx (s : State) (e : Event) : (s.log e).ctx = s.ctx := rfl
@[simp] theorem State.log_periph (s : State) (e : Event) : (s.log e).periph = s.periph := rfl
@[simp] theorem State.log_mem (s : State) (e : Event) : (s.log e).mem = s.mem := rfl
@[simp] theorem State.log_irq (s : State) (e : Event) : (s.log e).irq = s.irq := rfl
@[simp] theorem State.log_gpio (s : State) (e : Event) : (s.log e).gpio = s.gpio := rfl
@[simp] theorem State.log_env (s : State) (e : Event) : (s.log e).env = s.env := rfl
@[simp] theorem State.log_trace (s : State) (e : Event) : (s.log e).trace = s.trace ++ [e] := rfl

/-! ## busy -/

@[simp] theorem State.withCtx_busy (s : State) (x : Ctx) : (s.withCtx x).busy = s.busy := rfl
@[simp] theorem State.withPeriph_busy (s : State) (x : Periph) : (s.withPeriph x).busy = s.busy := rfl
@[simp] theorem State.withMem_busy (s : State) (x : Memory) : (s.withMem x).busy = s.busy := rfl
@[simp] theorem State.withIrq_busy (s : State) (x : Irq) : (s.withIrq x).busy = s.busy := rfl
@[simp] theorem State.withGpio_busy (s : State) (x : Gpio) : (s.withGpio x).busy = s.busy := rfl
@[simp] theorem State.withEnv_busy (s : State) (x : Env) : (s.withEnv x).busy = s.busy := rfl
@[simp] theorem State.log_busy (s : State) (e : Event) : (s.log e).busy = s.busy := rfl

theorem State.busy_iff (s : State) : s.busy = true ↔ s.block.cfl ≠ .idle := by simp [State.busy]

theorem State.busy_false_iff (s : State) : s.busy = false ↔ s.block.cfl = .idle := by simp [State.busy]

end Sys2Proof.Machine
end

