-- ==== Sys2Proof/Laws/Ops.lean ====
section
/-!
SUPPORT. The shared operations, each said once: sequencing, draws, buffer accesses, ending and accepting a request.
-/
namespace Sys2Proof.Machine

/-! ## Sequencing -/

@[simp] theorem andThen_next {α β : Type} (a : α) (f : α → Res β) : andThen (.next a) f = f a := rfl

@[simp] theorem andThen_fault {α β : Type} (r : Fault) (f : α → Res β) :
    andThen (.fault r) f = .fault r := rfl

@[simp] theorem andThen_refused {α β : Type} (r : Refusal) (f : α → Res β) :
    andThen (.refused r) f = .refused r := rfl

/-- A sequence answers next exactly when both halves do. -/
theorem andThen_eq_next {α β : Type} {o : Res α} {f : α → Res β} {b : β} :
    andThen o f = .next b ↔ ∃ a, o = .next a ∧ f a = .next b := by
  cases o <;> simp [andThen]

theorem andThen_assoc {α β γ : Type} (o : Res α) (f : α → Res β) (g : β → Res γ) :
    andThen (andThen o f) g = andThen o fun a => andThen (f a) g := by
  cases o <;> rfl

/-! ## Draws: they touch the inputs only -/

/-- What a draw leaves of the state: everything but the tapes and the count of draws. -/
structure SameButTapes (s t : State) : Prop where
  cfg : t.cfg = s.cfg
  block : t.block = s.block
  ctx : t.ctx = s.ctx
  periph : t.periph = s.periph
  mem : t.mem = s.mem
  irq : t.irq = s.irq
  gpio : t.gpio = s.gpio
  trace : t.trace = s.trace
  inbox : t.env.inbox = s.env.inbox
  resets : t.env.resets = s.env.resets
  race : t.env.race = s.env.race

theorem SameButTapes.refl (s : State) : SameButTapes s s := by constructor <;> rfl

theorem SameButTapes.trans {s t u : State} (h : SameButTapes s t) (k : SameButTapes t u) :
    SameButTapes s u := by
  constructor
  · exact k.cfg.trans h.cfg
  · exact k.block.trans h.block
  · exact k.ctx.trans h.ctx
  · exact k.periph.trans h.periph
  · exact k.mem.trans h.mem
  · exact k.irq.trans h.irq
  · exact k.gpio.trans h.gpio
  · exact k.trace.trans h.trace
  · exact k.inbox.trans h.inbox
  · exact k.resets.trans h.resets
  · exact k.race.trans h.race

theorem drawByte_same (s : State) : SameButTapes s (drawByte s).2 := by constructor <;> rfl
theorem drawWord_same (s : State) : SameButTapes s (drawWord s).2 := by constructor <;> rfl
theorem drawNat_same (s : State) : SameButTapes s (drawNat s).2 := by constructor <;> rfl
theorem drawAnswer_same (s : State) : SameButTapes s (drawAnswer s).2 := by constructor <;> rfl
theorem drawSched_same (s : State) : SameButTapes s (drawSched s).2 := by constructor <;> rfl
theorem drawStaOther_same (s : State) : SameButTapes s (drawStaOther s).2 := by constructor <;> rfl
theorem drawPad_same (s : State) : SameButTapes s (drawPad s).2 := by constructor <;> rfl

/-! ## Buffer accesses -/

/-- Everything a buffer read can do: at an address of the space it logs the byte it sees, and it changes nothing else
but the draws; without a race the byte is memory's. -/
theorem memRead_next {a : Nat} {s t : State} {v : Byte} (h : memRead a s = .next (v, t)) :
    a < 2 ^ 32 ∧ (s.env.race = false → v = s.mem.read a)
      ∧ ∃ u, SameButTapes s u ∧ t = u.log (.memRead a v) := by
  unfold memRead at h
  split at h
  · cases h
  · split at h
    · rename_i hr
      cases h
      exact ⟨by omega, by simp [hr], _, drawByte_same s, rfl⟩
    · cases h
      exact ⟨by omega, fun _ => rfl, s, SameButTapes.refl s, rfl⟩

/-- Everything a buffer write can do. -/
theorem memWrite_next {a : Nat} {v : Byte} {s t : State} (h : memWrite a v s = .next t) :
    a < 2 ^ 32 ∧ t = (s.withMem (s.mem.write a v)).log (.memWrite a v) := by
  unfold memWrite at h
  split at h
  · cases h
  · cases h
    exact ⟨by omega, rfl⟩

/-- A buffer write inside the space keeps the canonical form. -/
theorem memWrite_keeps_wf {a : Nat} {v : Byte} {s t : State} (hs : s.mem.wf = true)
    (h : memWrite a v s = .next t) : t.mem.wf = true := by
  obtain ⟨ha, rfl⟩ := memWrite_next h
  exact Memory.write_wf s.mem a v hs ha

/-! ## Ending and accepting a request -/

@[simp] theorem endRequest_block (st : Status) (s : State) :
    (endRequest st s).block = { s.block with status := st, cfl := .idle, wte := .none } := rfl
@[simp] theorem endRequest_trace (st : Status) (s : State) :
    (endRequest st s).trace = s.trace ++ [.complete st] := rfl
@[simp] theorem endRequest_cfg (st : Status) (s : State) : (endRequest st s).cfg = s.cfg := rfl
@[simp] theorem endRequest_ctx (st : Status) (s : State) : (endRequest st s).ctx = s.ctx := rfl
@[simp] theorem endRequest_periph (st : Status) (s : State) : (endRequest st s).periph = s.periph := rfl
@[simp] theorem endRequest_mem (st : Status) (s : State) : (endRequest st s).mem = s.mem := rfl
@[simp] theorem endRequest_irq (st : Status) (s : State) : (endRequest st s).irq = s.irq := rfl
@[simp] theorem endRequest_gpio (st : Status) (s : State) : (endRequest st s).gpio = s.gpio := rfl
@[simp] theorem endRequest_env (st : Status) (s : State) : (endRequest st s).env = s.env := rfl
@[simp] theorem endRequest_busy (st : Status) (s : State) : (endRequest st s).busy = false := rfl

/-- A peripheral with no frame running has nothing assembled. -/
theorem forgetAssembly_of_no_frame {s : State} (h : s.periph.frame = none) : forgetAssembly s = s := by
  unfold forgetAssembly; rw [h]

/-- Everything `forgetAssembly` can change: the assembly word of a running frame, and the count of draws. -/
theorem forgetAssembly_cases (s : State) :
    (s.periph.frame = none ∧ forgetAssembly s = s)
    ∨ ∃ f w, s.periph.frame = some f
        ∧ forgetAssembly s = (s.withEnv s.env.tick).withPeriph { s.periph with frame := some { f with rx := w } } := by
  unfold forgetAssembly
  split
  · rename_i h; exact .inl ⟨h, rfl⟩
  · rename_i f h; exact .inr ⟨f, _, h, rfl⟩

@[simp] theorem accept_block (op : BitVec 3) (b n : Word) (s : State) :
    (accept op b n s).block = { s.block with op := op, buf := b, size := n, cfl := .check, wte := .none } := by
  unfold accept unsettle forgetAssembly; split <;> (try split) <;> rfl
@[simp] theorem accept_trace (op : BitVec 3) (b n : Word) (s : State) :
    (accept op b n s).trace = s.trace := by
  unfold accept unsettle forgetAssembly; split <;> (try split) <;> rfl
@[simp] theorem accept_cfg (op : BitVec 3) (b n : Word) (s : State) :
    (accept op b n s).cfg = s.cfg := by
  unfold accept unsettle forgetAssembly; split <;> (try split) <;> rfl
@[simp] theorem accept_ctx (op : BitVec 3) (b n : Word) (s : State) :
    (accept op b n s).ctx = s.ctx := by
  unfold accept unsettle forgetAssembly; split <;> (try split) <;> rfl
@[simp] theorem accept_mem (op : BitVec 3) (b n : Word) (s : State) :
    (accept op b n s).mem = s.mem := by
  unfold accept unsettle forgetAssembly; split <;> (try split) <;> rfl
@[simp] theorem accept_irq (op : BitVec 3) (b n : Word) (s : State) :
    (accept op b n s).irq = s.irq := by
  unfold accept unsettle forgetAssembly; split <;> (try split) <;> rfl
@[simp] theorem accept_gpio (op : BitVec 3) (b n : Word) (s : State) :
    (accept op b n s).gpio = s.gpio := by
  unfold accept unsettle forgetAssembly; split <;> (try split) <;> rfl
@[simp] theorem accept_inbox (op : BitVec 3) (b n : Word) (s : State) :
    (accept op b n s).env.inbox = s.env.inbox := by
  unfold accept unsettle forgetAssembly; split <;> (try split) <;> rfl
@[simp] theorem accept_resets (op : BitVec 3) (b n : Word) (s : State) :
    (accept op b n s).env.resets = s.env.resets := by
  unfold accept unsettle forgetAssembly; split <;> (try split) <;> rfl
@[simp] theorem accept_race (op : BitVec 3) (b n : Word) (s : State) :
    (accept op b n s).env.race = s.env.race := by
  unfold accept unsettle forgetAssembly; split <;> (try split) <;> rfl
@[simp] theorem accept_answers (op : BitVec 3) (b n : Word) (s : State) :
    (accept op b n s).env.answers = s.env.answers := by
  unfold accept unsettle forgetAssembly; split <;> (try split) <;> rfl
@[simp] theorem accept_sched (op : BitVec 3) (b n : Word) (s : State) :
    (accept op b n s).env.sched = s.env.sched := by
  unfold accept unsettle forgetAssembly; split <;> (try split) <;> rfl
@[simp] theorem accept_staOther (op : BitVec 3) (b n : Word) (s : State) :
    (accept op b n s).env.staOther = s.env.staOther := by
  unfold accept unsettle forgetAssembly; split <;> (try split) <;> rfl
@[simp] theorem accept_rxPad (op : BitVec 3) (b n : Word) (s : State) :
    (accept op b n s).env.rxPad = s.env.rxPad := by
  unfold accept unsettle forgetAssembly; split <;> (try split) <;> rfl
@[simp] theorem accept_ctl (op : BitVec 3) (b n : Word) (s : State) :
    (accept op b n s).periph.ctl = s.periph.ctl := by
  unfold accept unsettle forgetAssembly; split <;> (try split) <;> rfl
@[simp] theorem accept_tx (op : BitVec 3) (b n : Word) (s : State) :
    (accept op b n s).periph.tx = s.periph.tx := by
  unfold accept unsettle forgetAssembly; split <;> (try split) <;> rfl
@[simp] theorem accept_rx (op : BitVec 3) (b n : Word) (s : State) :
    (accept op b n s).periph.rx = s.periph.rx := by
  unfold accept unsettle forgetAssembly; split <;> (try split) <;> rfl
/-- Acceptance settles what R216 says of the request: its link bytes are free when it moves bytes over a peripheral that
is not idle. -/
@[simp] theorem accept_disturbed (op : BitVec 3) (b n : Word) (s : State) :
    (accept op b n s).periph.disturbed
      = if movesBytes (decodeReq op b n) then !periphSettled s.periph else s.periph.disturbed := by
  unfold accept unsettle forgetAssembly
  split
  · split <;> rfl
  · rfl
@[simp] theorem accept_busy (op : BitVec 3) (b n : Word) (s : State) :
    (accept op b n s).busy = true := by
  unfold accept unsettle forgetAssembly; split <;> (try split) <;> rfl

/-- A request that moves no byte is accepted without touching the peripheral (R176). -/
theorem accept_of_no_bytes {op : BitVec 3} {b n : Word} (h : movesBytes (decodeReq op b n) = false) (s : State) :
    accept op b n s = s.withBlock { s.block with op := op, buf := b, size := n, cfl := .check, wte := .none } := by
  unfold accept; simp [h]

/-- A request accepted with no frame running finds the peripheral's frame and FIFOs as they are, and draws nothing. -/
theorem accept_of_no_frame (op : BitVec 3) (b n : Word) {s : State} (h : s.periph.frame = none) :
    accept op b n s
      = (s.withBlock { s.block with op := op, buf := b, size := n, cfl := .check, wte := .none }).withPeriph
          { s.periph with disturbed :=
              if movesBytes (decodeReq op b n) then !periphSettled s.periph else s.periph.disturbed } := by
  unfold accept unsettle
  split
  · simp only [forgetAssembly_of_no_frame h]; rfl
  · rfl

/-- The frame that a request is accepted with keeps its length, its position and the word it sends. -/
theorem accept_frame (op : BitVec 3) (b n : Word) (s : State) :
    (s.periph.frame = none ∧ (accept op b n s).periph.frame = none)
    ∨ ∃ f w, s.periph.frame = some f ∧ (accept op b n s).periph.frame = some { f with rx := w } := by
  unfold accept
  dsimp only
  split
  · unfold unsettle forgetAssembly
    split
    · rename_i h; exact .inl ⟨h, h⟩
    · rename_i f h; exact .inr ⟨f, _, h, rfl⟩
  · cases hf : s.periph.frame with
    | none => exact .inl ⟨rfl, hf⟩
    | some f => exact .inr ⟨f, f.rx, rfl, hf⟩

/-! ## Reset of the block -/

@[simp] theorem blockReset_busy (s : State) : (blockReset s).busy = false := rfl
@[simp] theorem blockReset_cfg (s : State) : (blockReset s).cfg = s.cfg := rfl
@[simp] theorem blockReset_ctx (s : State) : (blockReset s).ctx = Ctx.reset := rfl
@[simp] theorem blockReset_periph (s : State) : (blockReset s).periph = s.periph := rfl
@[simp] theorem blockReset_mem (s : State) : (blockReset s).mem = s.mem := rfl
@[simp] theorem blockReset_irq (s : State) : (blockReset s).irq = s.irq := rfl
@[simp] theorem blockReset_gpio (s : State) : (blockReset s).gpio = s.gpio := rfl
@[simp] theorem blockReset_trace (s : State) : (blockReset s).trace = s.trace := rfl

end Sys2Proof.Machine
end

