-- ==== Sys2Proof/Laws/Periph.lean ====
section
/-!
SUPPORT. What the peripheral's steps can change: its FIFOs, its frame, the inputs it draws, and the bytes on the link.
-/
namespace Sys2Proof.Machine

/-- What the peripheral's own steps leave of the state; they add only link bytes to the trace. -/
structure PeriphOnly (s t : State) : Prop where
  cfg : t.cfg = s.cfg
  block : t.block = s.block
  ctx : t.ctx = s.ctx
  mem : t.mem = s.mem
  irq : t.irq = s.irq
  gpio : t.gpio = s.gpio
  ctl : t.periph.ctl = s.periph.ctl
  disturbed : t.periph.disturbed = s.periph.disturbed
  inbox : t.env.inbox = s.env.inbox
  resets : t.env.resets = s.env.resets
  race : t.env.race = s.env.race
  trace : ∃ ws, t.trace = s.trace ++ ws ∧ ∀ e ∈ ws, ∃ o i, e = Event.wire o i

theorem PeriphOnly.refl (s : State) : PeriphOnly s s := by
  constructor <;> first | rfl | exact ⟨[], by simp, by simp⟩

theorem PeriphOnly.trans {s t u : State} (h : PeriphOnly s t) (k : PeriphOnly t u) : PeriphOnly s u := by
  constructor
  · exact k.cfg.trans h.cfg
  · exact k.block.trans h.block
  · exact k.ctx.trans h.ctx
  · exact k.mem.trans h.mem
  · exact k.irq.trans h.irq
  · exact k.gpio.trans h.gpio
  · exact k.ctl.trans h.ctl
  · exact k.disturbed.trans h.disturbed
  · exact k.inbox.trans h.inbox
  · exact k.resets.trans h.resets
  · exact k.race.trans h.race
  · obtain ⟨w1, e1, p1⟩ := h.trace
    obtain ⟨w2, e2, p2⟩ := k.trace
    refine ⟨w1 ++ w2, by rw [e2, e1, List.append_assoc], fun e he => ?_⟩
    rcases List.mem_append.mp he with he | he
    · exact p1 e he
    · exact p2 e he

theorem SameButTapes.periphOnly {s t : State} (h : SameButTapes s t) : PeriphOnly s t := by
  constructor
  · exact h.cfg
  · exact h.block
  · exact h.ctx
  · exact h.mem
  · exact h.irq
  · exact h.gpio
  · rw [h.periph]
  · rw [h.periph]
  · exact h.inbox
  · exact h.resets
  · exact h.race
  · exact ⟨[], by simp [h.trace], by simp⟩

theorem exchange_same (b : Byte) (s : State) : SameButTapes s (exchange b s).2 := by
  unfold exchange
  split
  · exact (drawByte_same s).trans (drawByte_same _)
  · exact drawAnswer_same s

theorem setFrame_periphOnly (f : Option Frame) (s : State) : PeriphOnly s (setFrame f s) := by
  constructor <;> first | rfl | exact ⟨[], by simp [setFrame], by simp⟩

/-- The end of a FIFO word of a frame needs room in the RX FIFO, takes the TX head and appends the RX word. -/
theorem frameWordDone_next {a : Word} {s t : State} (h : frameWordDone a s = .next t) :
    s.periph.rx.length < s.cfg.rxDepth
      ∧ t = s.withPeriph { s.periph with tx := s.periph.tx.tail, rx := s.periph.rx ++ [a] } := by
  unfold frameWordDone rxFull at h
  split at h
  · cases h
  · rename_i hf
    cases h
    exact ⟨by simpa using hf, rfl⟩

theorem frameWordDone_periphOnly {a : Word} {s t : State} (h : frameWordDone a s = .next t) :
    PeriphOnly s t := by
  obtain ⟨-, rfl⟩ := frameWordDone_next h
  constructor <;> first | rfl | exact ⟨[], by simp, by simp⟩

theorem log_wire_periphOnly (o i : Byte) (s : State) : PeriphOnly s (s.log (.wire o i)) := by
  constructor <;> first | rfl | exact ⟨[.wire o i], rfl, by simp⟩

theorem frameExchange_periphOnly {f : Frame} {s t : State} (h : frameExchange f s = .next t) :
    PeriphOnly s t := by
  have h1 : PeriphOnly s ((exchange (byteOf f.word (f.i % 4)) s).2.log
      (.wire (exchange (byteOf f.word (f.i % 4)) s).1.1 (exchange (byteOf f.word (f.i % 4)) s).1.2)) :=
    (exchange_same _ s).periphOnly.trans (log_wire_periphOnly _ _ _)
  simp only [frameExchange] at h
  split at h
  · obtain ⟨u, hu, hn⟩ := andThen_eq_next.mp h
    cases hn
    exact h1.trans ((frameWordDone_periphOnly hu).trans (setFrame_periphOnly _ _))
  · split at h
    · obtain ⟨u, hu, hn⟩ := andThen_eq_next.mp h
      cases hn
      exact h1.trans ((frameWordDone_periphOnly hu).trans (setFrame_periphOnly _ _))
    · cases h
      exact h1.trans (setFrame_periphOnly _ _)

theorem frameByte_periphOnly {f : Frame} {s t : State} (h : frameByte f s = .next t) : PeriphOnly s t := by
  unfold frameByte at h
  split at h
  · split at h
    · cases h; exact PeriphOnly.refl s
    · exact (drawPad_same s).periphOnly.trans (frameExchange_periphOnly h)
  · exact frameExchange_periphOnly h

theorem periphRun_periphOnly {k : Nat} : ∀ {s t : State}, periphRun k s = .next t → PeriphOnly s t := by
  induction k with
  | zero => intro s t h; cases h; exact PeriphOnly.refl s
  | succ k ih =>
    intro s t h
    unfold periphRun at h
    split at h
    · cases h; exact PeriphOnly.refl s
    · obtain ⟨u, hu, hn⟩ := andThen_eq_next.mp h
      exact (frameByte_periphOnly hu).trans (ih hn)

/-- Everything the peripheral's share of a tick can do to the rest of the machine. -/
theorem breathe_periphOnly {s t : State} (h : breathe s = .next t) : PeriphOnly s t := by
  unfold breathe at h
  split at h
  · cases h; exact PeriphOnly.refl s
  · exact (drawSched_same s).periphOnly.trans (periphRun_periphOnly h)

/-- With no frame in progress the peripheral does nothing. -/
@[simp] theorem breathe_of_no_frame {s : State} (h : s.periph.frame = none) : breathe s = .next s := by
  unfold breathe; rw [h]

end Sys2Proof.Machine
end

