-- ==== Sys2Proof/Laws/Run.lean ====
section
/-!
SUPPORT. Runs of ticks: what every tick keeps a run keeps, and a run that has ended does not depend on the fuel.
-/
namespace Sys2Proof.Machine

@[simp] theorem runTicks_idle (n : Nat) {s : State} (h : s.busy = false) : runTicks n s = .next s := by
  cases n with
  | zero => rfl
  | succ n => unfold runTicks; simp [h]

theorem runTicks_busy (n : Nat) {s : State} (h : s.busy = true) :
    runTicks (n + 1) s = andThen (tick s) (runTicks n) := by
  conv_lhs => unfold runTicks
  simp [h]

/-- What every tick of a busy block keeps, a run keeps. -/
theorem runTicks_keeps (P : State → Prop)
    (hP : ∀ s t, P s → s.busy = true → tick s = .next t → P t) :
    ∀ n s t, P s → runTicks n s = .next t → P t := by
  intro n
  induction n with
  | zero => intro s t hs h; cases h; exact hs
  | succ n ih =>
    intro s t hs h
    cases hb : s.busy with
    | false => rw [runTicks_idle _ hb] at h; cases h; exact hs
    | true =>
      rw [runTicks_busy n hb] at h
      obtain ⟨u, hu, hn⟩ := andThen_eq_next.mp h
      exact ih u t (hP s u hs hb hu) hn

/-- Ticks compose. -/
theorem runTicks_add (m n : Nat) : ∀ s, runTicks (m + n) s = andThen (runTicks m s) (runTicks n) := by
  induction m with
  | zero => intro s; simp [runTicks]
  | succ m ih =>
    intro s
    cases hb : s.busy with
    | false => simp [runTicks_idle _ hb]
    | true =>
      rw [Nat.succ_add, runTicks_busy _ hb, runTicks_busy _ hb, andThen_assoc]
      congr 1
      funext a
      exact ih a

/-- A run that has ended is the same with more fuel. -/
theorem runTicks_of_le {m n : Nat} {s t : State} (h : runTicks m s = .next t) (ht : t.busy = false)
    (hmn : m ≤ n) : runTicks n s = .next t := by
  obtain ⟨k, rfl⟩ := Nat.exists_eq_add_of_le hmn
  rw [runTicks_add, h, andThen_next, runTicks_idle _ ht]

/-- What a tick is when no reset is on its way. -/
theorem tick_of_no_reset {s : State} (h : s.env.resets = []) : tick s = andThen (breathe s) act := by
  unfold tick; rw [h]

/-- Everything a tick can be: the reset that arrives now, or the peripheral's share and one action. -/
theorem tick_next {s t : State} (h : tick s = .next t) :
    (∃ later, s.env.resets = 0 :: later ∧ t = blockReset (setResets later s))
    ∨ ∃ r u, (s.env.resets = [] ∧ r = [] ∨ ∃ n later, s.env.resets = (n + 1) :: later ∧ r = n :: later)
        ∧ breathe (setResets r s) = .next u ∧ act u = .next t := by
  unfold tick at h
  split at h
  · rename_i hr
    obtain ⟨u, hu, hn⟩ := andThen_eq_next.mp h
    have hs : setResets [] s = s := by
      unfold setResets; rw [← hr]; rfl
    exact .inr ⟨[], u, .inl ⟨hr, rfl⟩, by rw [hs]; exact hu, hn⟩
  · rename_i hr
    cases h
    exact .inl ⟨_, hr, rfl⟩
  · rename_i n later hr
    obtain ⟨u, hu, hn⟩ := andThen_eq_next.mp h
    exact .inr ⟨n :: later, u, .inr ⟨n, later, hr, rfl⟩, hu, hn⟩

/-- A request accepted by an idle block is the run from its acceptance. -/
theorem runRequest_of_idle (op : BitVec 3) (b n : Word) {s : State} (h : s.busy = false) :
    runRequest op b n s = runTicks tickFuel (accept op b n s) := by
  unfold runRequest resume; simp [h]

/-- A strobe while busy has no effect. -/
theorem runRequest_of_busy (op : BitVec 3) (b n : Word) {s : State} (h : s.busy = true) :
    runRequest op b n s = .next s := by
  unfold runRequest; simp [h]

/-- Every request is run by its op code and its two operands. -/
theorem exec_eq_runRequest (i : Instr) (s : State) : exec i s = runRequest i.op i.buf i.size s := by
  cases i <;> rfl

end Sys2Proof.Machine
end

