-- ==== Sys2Proof/Laws/Act.lean ====
section
/-!
SUPPORT. What one action of the block can change, said once for all its states: everything the block does not own stays,
and the trace grows by at most one event, which is no link byte.
-/
namespace Sys2Proof.Machine

/-- What one action adds to the trace: nothing, or one event that is no link byte. -/
def ActTrace (es : List Event) : Prop :=
  es = [] ∨ ∃ e, es = [e] ∧ ∀ o i, e ≠ Event.wire o i

/-- What one action leaves of the state. -/
structure ActOnly (s t : State) : Prop where
  cfg : t.cfg = s.cfg
  ctx : t.ctx = s.ctx
  irq : t.irq = s.irq
  gpio : t.gpio = s.gpio
  inbox : t.env.inbox = s.env.inbox
  resets : t.env.resets = s.env.resets
  race : t.env.race = s.env.race
  op : t.block.op = s.block.op
  buf : t.block.buf = s.block.buf
  size : t.block.size = s.block.size
  trace : ∃ es, t.trace = s.trace ++ es ∧ ActTrace es

/-- An update of the block's registers that keeps the request's own, and logs nothing. -/
theorem ActOnly.ofBlock {s : State} {b : Block} (h1 : b.op = s.block.op) (h2 : b.buf = s.block.buf)
    (h3 : b.size = s.block.size) : ActOnly s (s.withBlock b) := by
  constructor <;> first | rfl | assumption | exact ⟨[], by simp, .inl rfl⟩

/-- A state that differs from `t` in block registers other than the request's own. -/
theorem ActOnly.block {s t : State} {b : Block} (h : ActOnly s t) (h1 : b.op = t.block.op)
    (h2 : b.buf = t.block.buf) (h3 : b.size = t.block.size) : ActOnly s (t.withBlock b) := by
  constructor
  · exact h.cfg
  · exact h.ctx
  · exact h.irq
  · exact h.gpio
  · exact h.inbox
  · exact h.resets
  · exact h.race
  · exact h1.trans h.op
  · exact h2.trans h.buf
  · exact h3.trans h.size
  · exact h.trace

theorem ActOnly.goWte {s t : State} (h : ActOnly s t) (w : Wte) : ActOnly s (goWte w t) := h.block rfl rfl rfl
theorem ActOnly.goPoll {s t : State} (h : ActOnly s t) (w : Wte) : ActOnly s (goPoll w t) := h.block rfl rfl rfl
theorem ActOnly.goWords {s t : State} (h : ActOnly s t) (w : Wte) : ActOnly s (goWords w t) := h.block rfl rfl rfl
theorem ActOnly.goPhase {s t : State} (h : ActOnly s t) (p : Phase) : ActOnly s (goPhase p t) := h.block rfl rfl rfl
theorem ActOnly.goCfl {s t : State} (h : ActOnly s t) (c : Cfl) : ActOnly s (goCfl c t) := h.block rfl rfl rfl

theorem ActOnly.refl (s : State) : ActOnly s s := by
  constructor <;> first | rfl | exact ⟨[], by simp, .inl rfl⟩

theorem ActOnly.nextByte {s t : State} (h : ActOnly s t) (k : Fin 4) {fin : State → State}
    (hf : ActOnly s (fin t)) : ActOnly s (nextByte k fin t) := by
  unfold Machine.nextByte
  split
  · exact h.goPhase _
  · exact hf

theorem ActOnly.nextWord {s t : State} (h : ActOnly s t) {after : State → State}
    (ha : ∀ {u}, ActOnly s u → ActOnly s (after u)) : ActOnly s (nextWord after t) := by
  have h1 : ActOnly s (t.withBlock { t.block with wj := t.block.wj + 1 }) := h.block rfl rfl rfl
  unfold Machine.nextWord
  dsimp only
  split
  · exact h1.goPoll _
  · exact ha h1

/-- One logged event after draws and register updates. -/
theorem ActOnly.logged {s u : State} {e : Event} (h : SameButTapes s u) (he : ∀ o i, e ≠ Event.wire o i) :
    ActOnly s (u.log e) := by
  constructor
  · exact h.cfg
  · exact h.ctx
  · exact h.irq
  · exact h.gpio
  · exact h.inbox
  · exact h.resets
  · exact h.race
  · show u.block.op = _; rw [h.block]
  · show u.block.buf = _; rw [h.block]
  · show u.block.size = _; rw [h.block]
  · exact ⟨[e], by simp [h.trace], .inr ⟨e, rfl, he⟩⟩

/-- A change of the peripheral and one logged event. -/
theorem ActOnly.periphLogged {s : State} {p : Periph} {e : Event} (he : ∀ o i, e ≠ Event.wire o i) :
    ActOnly s ((s.withPeriph p).log e) := by
  constructor <;> first | rfl | exact ⟨[e], by simp, .inr ⟨e, rfl, he⟩⟩

/-! ## Registers -/

theorem readSta_actOnly (s : State) : ActOnly s (readSta s).2 :=
  ActOnly.logged (drawStaOther_same s) (by simp)

theorem readSta_trace (s : State) :
    ∃ v, (readSta s).2.trace = s.trace ++ [.mmioRead .sta v] := ⟨_, rfl⟩

theorem readCtl_actOnly (s : State) : ActOnly s (readCtl s).2 :=
  ActOnly.logged (SameButTapes.refl s) (by simp)

theorem ctlRead_actOnly (s : State) : ActOnly s (ctlRead s) := (readCtl_actOnly s).block rfl rfl rfl

theorem readRxd_next {s t : State} {w : Word} (h : readRxd s = .next (w, t)) :
    ∃ rest, s.periph.rx = w :: rest
      ∧ t = (s.withPeriph { s.periph with rx := rest }).log (.mmioRead .rxd w) := by
  unfold readRxd at h
  split at h
  · cases h
  · rename_i w' rest hr
    cases h
    exact ⟨rest, hr, rfl⟩

theorem writeTxd_next {v : Word} {s t : State} (h : writeTxd v s = .next t) :
    s.periph.tx.length < s.cfg.txDepth
      ∧ t = (s.withPeriph { s.periph with tx := s.periph.tx ++ [v] }).log (.mmioWrite .txd v) := by
  unfold writeTxd txFull at h
  split at h
  · cases h
  · rename_i hf
    cases h
    exact ⟨by simpa using hf, rfl⟩

/-- A CTL write touches the peripheral and the draws only. -/
theorem writeCtlEffect_same (v : Word) (s : State) :
    ∃ u, SameButTapes s u ∧ ∃ p, writeCtlEffect v s = u.withPeriph p := by
  unfold writeCtlEffect
  split
  · split
    · exact ⟨(drawNat s).2, drawNat_same s, _, rfl⟩
    · exact ⟨s, SameButTapes.refl s, _, rfl⟩
  · split
    · exact ⟨s, SameButTapes.refl s, _, rfl⟩
    · exact ⟨s, SameButTapes.refl s, _, rfl⟩

theorem writeCtl_actOnly (v : Word) (s : State) : ActOnly s (writeCtl v s) := by
  obtain ⟨u, hu, p, hp⟩ := writeCtlEffect_same v s
  unfold writeCtl
  rw [hp]
  constructor
  · exact hu.cfg
  · exact hu.ctx
  · exact hu.irq
  · exact hu.gpio
  · exact hu.inbox
  · exact hu.resets
  · exact hu.race
  · show u.block.op = _; rw [hu.block]
  · show u.block.buf = _; rw [hu.block]
  · show u.block.size = _; rw [hu.block]
  · exact ⟨[.mmioWrite .ctl v], by simp [hu.trace], .inr ⟨_, rfl, by simp⟩⟩

theorem writeCtl_block (v : Word) (s : State) : (writeCtl v s).block = s.block := by
  obtain ⟨u, hu, p, hp⟩ := writeCtlEffect_same v s
  unfold writeCtl
  rw [hp]
  exact hu.block

theorem writeCtl_mem (v : Word) (s : State) : (writeCtl v s).mem = s.mem := by
  obtain ⟨u, hu, p, hp⟩ := writeCtlEffect_same v s
  unfold writeCtl
  rw [hp]
  exact hu.mem

/-- CTL after a write: as written, but for the FIFO-clear bits. -/
theorem writeCtl_ctl (v : Word) (s : State) : (writeCtl v s).periph.ctl = v &&& ~~~clearMask s.cfg := by
  unfold writeCtl writeCtlEffect
  split
  · split <;> rfl
  · split <;> rfl

/-! ## Ending in an action -/

theorem endRequest_actOnly (st : Status) (s : State) : ActOnly s (endRequest st s) := by
  constructor <;> first | rfl | exact ⟨[.complete st], rfl, .inr ⟨_, rfl, by simp⟩⟩

/-- Everything one poll of a wait can be: the test held, or the poll counted and the wait goes on, or the budget was
spent. -/
theorem waitPoll_next {t : StaTest} {onHold : State → State} {s s' : State}
    (h : waitPoll t onHold s = .next s') :
    (t.holds s.cfg (readSta s).1 = true ∧ s' = onHold (readSta s).2)
    ∨ (t.holds s.cfg (readSta s).1 = false ∧ pollsSpent s.cfg (s.block.polls + 1) = false
        ∧ s' = (readSta s).2.withBlock { s.block with polls := s.block.polls + 1 })
    ∨ (t.holds s.cfg (readSta s).1 = false ∧ pollsSpent s.cfg (s.block.polls + 1) = true
        ∧ s' = (readSta s).2.withBlock
            { s.block with polls := s.block.polls + 1, phase := .giveUp }) := by
  unfold waitPoll at h
  dsimp only at h
  split at h
  · rename_i hh; cases h; exact .inl ⟨hh, rfl⟩
  · rename_i hh
    have hh' : t.holds s.cfg (readSta s).1 = false := by simpa using hh
    split at h
    · rename_i hp; cases h; exact .inr (.inr ⟨hh', hp, rfl⟩)
    · rename_i hp
      cases h
      exact .inr (.inl ⟨hh', eq_false_of_ne_true hp, rfl⟩)

theorem waitPoll_actOnly {t : StaTest} {onHold : State → State} {s s' : State}
    (ho : ∀ {u}, ActOnly s u → ActOnly s (onHold u)) (h : waitPoll t onHold s = .next s') : ActOnly s s' := by
  rcases waitPoll_next h with ⟨-, rfl⟩ | ⟨-, -, rfl⟩ | ⟨-, -, rfl⟩
  · exact ho (readSta_actOnly s)
  · exact (readSta_actOnly s).block rfl rfl rfl
  · exact (readSta_actOnly s).block rfl rfl rfl

/-! ## Byte accesses -/

/-- Everything a source byte can be (R24): a buffer read, or a byte of a constant with the state as it was. -/
theorem srcByte_next {i : Nat} {s t : State} {v : Byte} (h : srcByte i s = .next (v, t)) :
    (s.block.wSrc = .buf ∧ memRead (s.block.wBase.toNat + i) s = .next (v, t))
    ∨ (t = s ∧ ((s.block.wSrc = .hdr ∧ s.block.hdr.toList[i]? = some v)
        ∨ (s.block.wSrc = .trl ∧ (trailer (isRead s.block))[i]? = some v)
        ∨ (s.block.wSrc = .cmd0f ∧ cmd0Frame[i]? = some v))) := by
  unfold srcByte storeByteAt at h
  split at h
  · rename_i hs; exact .inl ⟨hs, h⟩
  · rename_i hs
    split at h
    · rename_i hv; cases h; exact .inr ⟨rfl, .inl ⟨hs, hv⟩⟩
    · cases h
  · rename_i hs
    split at h
    · rename_i hv; cases h; exact .inr ⟨rfl, .inr (.inl ⟨hs, hv⟩)⟩
    · cases h
  · rename_i hs
    split at h
    · rename_i hv; cases h; exact .inr ⟨rfl, .inr (.inr ⟨hs, hv⟩)⟩
    · cases h
  · cases h

theorem srcByte_actOnly {i : Nat} {s t : State} {v : Byte} (h : srcByte i s = .next (v, t)) :
    ActOnly s t := by
  rcases srcByte_next h with ⟨-, hm⟩ | ⟨rfl, -⟩
  · obtain ⟨-, -, u, hu, rfl⟩ := memRead_next hm
    exact ActOnly.logged hu (by simp)
  · exact ActOnly.refl t

theorem srcByte_block {i : Nat} {s t : State} {v : Byte} (h : srcByte i s = .next (v, t)) :
    t.block = s.block := by
  rcases srcByte_next h with ⟨-, hm⟩ | ⟨rfl, -⟩
  · obtain ⟨-, -, u, hu, rfl⟩ := memRead_next hm
    exact hu.block
  · rfl

/-- Everything a destination byte can be (R24): a buffer write, or the response register. -/
theorem dstByte_next {i : Nat} {v : Byte} {s t : State} (h : dstByte i v s = .next t) :
    (s.block.wSrc = .buf ∧ memWrite (s.block.wBase.toNat + i) v s = .next t)
    ∨ (s.block.wSrc = .resp ∧ i = 0 ∧ t = s.withBlock { s.block with resp := v }) := by
  unfold dstByte at h
  split at h
  · rename_i hs; exact .inl ⟨hs, h⟩
  · rename_i hs
    split at h
    · rename_i hi; cases h; exact .inr ⟨hs, hi, rfl⟩
    · cases h
  · cases h
  · cases h
  · cases h

theorem dstByte_actOnly {i : Nat} {v : Byte} {s t : State} (h : dstByte i v s = .next t) : ActOnly s t := by
  rcases dstByte_next h with ⟨-, hm⟩ | ⟨-, -, rfl⟩
  · obtain ⟨-, rfl⟩ := memWrite_next hm
    constructor <;> first | rfl | exact ⟨[.memWrite _ v], rfl, .inr ⟨_, rfl, by simp⟩⟩
  · exact ActOnly.ofBlock rfl rfl rfl

/-! ## The states of the WTE -/

theorem wTop_actOnly (s : State) : ActOnly s (wTop s) := by
  unfold wTop
  split
  · exact ActOnly.ofBlock rfl rfl rfl
  · exact ActOnly.ofBlock rfl rfl rfl

theorem trigOff_actOnly (s : State) : ActOnly s (trigOff s) := by
  unfold trigOff
  split
  · exact (writeCtl_actOnly _ s).goPoll _
  · exact ctlRead_actOnly s
  · exact ctlRead_actOnly s
  · exact ctlRead_actOnly s

theorem setFl_actOnly (s : State) : ActOnly s (setFl s) := by
  unfold setFl
  split
  · exact (writeCtl_actOnly _ s).goWords _
  · exact ctlRead_actOnly s
  · exact ctlRead_actOnly s
  · exact ctlRead_actOnly s

theorem trigOn_actOnly (s : State) : ActOnly s (trigOn s) := by
  unfold trigOn
  split
  · exact (writeCtl_actOnly _ s).goWords _
  · exact ctlRead_actOnly s
  · exact ctlRead_actOnly s
  · exact ctlRead_actOnly s

theorem drainPoll_actOnly (s : State) : ActOnly s (drainPoll s) := by
  unfold drainPoll
  dsimp only
  split
  · exact (readSta_actOnly s).goPoll _
  · split
    · exact (readSta_actOnly s).goPhase _
    · exact (readSta_actOnly s).goPhase _

theorem readRxd_actOnly {s t : State} {w : Word} (h : readRxd s = .next (w, t)) : ActOnly s t := by
  obtain ⟨rest, -, rfl⟩ := readRxd_next h
  exact ActOnly.periphLogged (by simp)

theorem drain_actOnly {s t : State} (h : drain s = .next t) : ActOnly s t := by
  unfold drain at h
  split at h
  · obtain ⟨⟨w, u⟩, hu, hn⟩ := andThen_eq_next.mp h
    cases hn
    exact (readRxd_actOnly hu).block rfl rfl rfl
  · cases h; exact drainPoll_actOnly s
  · cases h; exact drainPoll_actOnly s
  · cases h; exact endRequest_actOnly _ s

theorem waitTxe_actOnly {s t : State} (h : waitTxe s = .next t) : ActOnly s t := by
  unfold waitTxe at h
  split at h
  · cases h; exact endRequest_actOnly _ s
  · exact waitPoll_actOnly (fun h => h.goWte _) h
  · exact waitPoll_actOnly (fun h => h.goWte _) h
  · exact waitPoll_actOnly (fun h => h.goWte _) h

theorem beginTxWord_actOnly {s u : State} (h : ActOnly s u) : ActOnly s (beginTxWord u) := by
  unfold beginTxWord
  split
  · exact h.block rfl rfl rfl
  · exact h.block rfl rfl rfl

theorem packByte_actOnly {k : Fin 4} {s t : State} (h : packByte k s = .next t) : ActOnly s t := by
  simp only [packByte] at h
  split at h
  · obtain ⟨⟨v, u⟩, hu, hn⟩ := andThen_eq_next.mp h
    cases hn
    have h1 : ActOnly s (u.withBlock { u.block with latch := setByte u.block.latch k v }) :=
      (srcByte_actOnly hu).block rfl rfl rfl
    exact h1.nextByte k (h1.goPhase _)
  · cases h
    have h1 : ActOnly s (s.withBlock { s.block with latch := setByte s.block.latch k 0 }) :=
      ActOnly.ofBlock rfl rfl rfl
    exact h1.nextByte k (h1.goPhase _)

theorem txWords_actOnly {s t : State} (h : txWords s = .next t) : ActOnly s t := by
  unfold txWords at h
  split at h
  · exact waitPoll_actOnly beginTxWord_actOnly h
  · exact packByte_actOnly h
  · obtain ⟨u, hu, hn⟩ := andThen_eq_next.mp h
    cases hn
    obtain ⟨-, rfl⟩ := writeTxd_next hu
    exact (ActOnly.periphLogged (by simp)).nextWord fun h => h.goWte _
  · cases h; exact endRequest_actOnly _ s

theorem takeRxWord_actOnly {s t : State} (h : takeRxWord s = .next t) : ActOnly s t := by
  unfold takeRxWord at h
  obtain ⟨⟨w, u⟩, hu, hn⟩ := andThen_eq_next.mp h
  have h1 := readRxd_actOnly hu
  dsimp only at hn
  split at hn
  · cases hn
    exact h1.nextWord fun h => h.goWte _
  · cases hn
    exact h1.block rfl rfl rfl

theorem unpackByte_actOnly {k : Fin 4} {s t : State} (h : unpackByte k s = .next t) : ActOnly s t := by
  simp only [unpackByte] at h
  split at h
  · obtain ⟨u, hu, hn⟩ := andThen_eq_next.mp h
    cases hn
    have h1 := dstByte_actOnly hu
    exact h1.nextByte k (h1.nextWord fun h => h.goWte _)
  · cases h
    have h1 := ActOnly.refl s
    exact h1.nextByte k (h1.nextWord fun h => h.goWte _)

theorem rxWords_actOnly {s t : State} (h : rxWords s = .next t) : ActOnly s t := by
  unfold rxWords at h
  split at h
  · exact waitPoll_actOnly (fun h => h.goPhase _) h
  · exact takeRxWord_actOnly h
  · exact unpackByte_actOnly h
  · cases h; exact endRequest_actOnly _ s

theorem wteAct_actOnly {s t : State} (h : wteAct s = .next t) : ActOnly s t := by
  unfold wteAct at h
  split at h
  · cases h; exact ActOnly.refl s
  · cases h; exact wTop_actOnly s
  · cases h; exact trigOff_actOnly s
  · exact drain_actOnly h
  · exact waitTxe_actOnly h
  · cases h; exact setFl_actOnly s
  · exact txWords_actOnly h
  · cases h; exact trigOn_actOnly s
  · exact rxWords_actOnly h
  · cases h; exact ActOnly.ofBlock rfl rfl rfl

/-! ## The states of the CFL -/

theorem callWte_actOnly (d : Dir) (w : WSrc) (b n : Word) (s : State) : ActOnly s (callWte d w b n s) :=
  ActOnly.ofBlock rfl rfl rfl

theorem checkBuffer_actOnly (c : Cfl) (s : State) : ActOnly s (checkBuffer c s) := by
  unfold checkBuffer
  split
  · exact endRequest_actOnly _ s
  · exact ActOnly.ofBlock rfl rfl rfl

theorem checkC53_actOnly (s : State) : ActOnly s (checkC53 s) := by
  unfold checkC53
  split
  · exact endRequest_actOnly _ s
  · exact ActOnly.ofBlock rfl rfl rfl

theorem checkRequest_actOnly (s : State) : ActOnly s (checkRequest s) := by
  unfold checkRequest
  split
  · exact checkBuffer_actOnly _ s
  · exact checkBuffer_actOnly _ s
  · exact ActOnly.ofBlock rfl rfl rfl
  · exact checkC53_actOnly s
  · exact checkC53_actOnly s
  · exact endRequest_actOnly _ s
  · exact endRequest_actOnly _ s
  · exact endRequest_actOnly _ s

theorem c53Top_actOnly (s : State) : ActOnly s (c53Top s) := by
  unfold c53Top
  split
  · exact ActOnly.ofBlock rfl rfl rfl
  · exact ActOnly.ofBlock rfl rfl rfl

theorem cflAct_actOnly (s : State) : ActOnly s (cflAct s) := by
  unfold cflAct
  split
  · exact ActOnly.refl s
  · exact checkRequest_actOnly s
  · exact callWte_actOnly _ _ _ _ s
  · exact callWte_actOnly _ _ _ _ s
  · exact callWte_actOnly _ _ _ _ s
  · exact callWte_actOnly _ _ _ _ s
  · exact endRequest_actOnly _ s
  · exact c53Top_actOnly s
  · exact callWte_actOnly _ _ _ _ s
  · exact callWte_actOnly _ _ _ _ s
  · exact callWte_actOnly _ _ _ _ s
  · exact ActOnly.ofBlock rfl rfl rfl
  · exact endRequest_actOnly _ s

theorem act_eq_wteAct {s : State} (h : s.block.wte ≠ .none) : act s = wteAct s := by
  unfold act
  cases hw : s.block.wte <;> first | exact absurd hw h | rfl

theorem act_eq_cflAct {s : State} (h : s.block.wte = .none) : act s = .next (cflAct s) := by
  unfold act; rw [h]

/-- Everything one action can do to what the block does not own. -/
theorem act_actOnly {s t : State} (h : act s = .next t) : ActOnly s t := by
  by_cases hw : s.block.wte = .none
  · rw [act_eq_cflAct hw] at h
    cases h
    exact cflAct_actOnly s
  · rw [act_eq_wteAct hw] at h
    exact wteAct_actOnly h

end Sys2Proof.Machine
end

