-- ==== Sys2Proof/Laws/PerInstr.lean ====
section
/-!
SUPPORT. Facts about every request, one lemma for each constructor. EncodeOp: the op field of a request's word is its op
code (R81, R84).
-/
namespace Sys2Proof.Laws.EncodeOp

/-- The low three bits of the word of a request are the op code of R81. -/
def Statement (i : Instr) : Prop := reqOp (encode i) = i.op

theorem reqOp_append (n b : Word) (o : BitVec 3) : reqOp (n ++ (b ++ o)) = o := by
  unfold reqOp
  ext k hk
  have h1 : (n ++ (b ++ o)).getLsbD k = (b ++ o).getLsbD k := by
    rw [BitVec.getLsbD_append, if_pos (by omega)]
  have h2 : (b ++ o).getLsbD k = o.getLsbD k := by
    rw [BitVec.getLsbD_append, if_pos hk]
  rw [BitVec.getElem_extractLsb', Nat.zero_add]
  exact (h1.trans h2).trans (BitVec.getLsbD_eq_getElem hk)

theorem send (b n : Word) : Statement (.send b n) := reqOp_append n b _

theorem recv (b n : Word) : Statement (.recv b n) := reqOp_append n b _

theorem cmd0 (b n : Word) : Statement (.cmd0 b n) := reqOp_append n b _

theorem cmd53r (b n : Word) : Statement (.cmd53r b n) := reqOp_append n b _

theorem cmd53w (b n : Word) : Statement (.cmd53w b n) := reqOp_append n b _

theorem rsv5 (b n : Word) : Statement (.rsv5 b n) := reqOp_append n b _

theorem rsv6 (b n : Word) : Statement (.rsv6 b n) := reqOp_append n b _

theorem rsv7 (b n : Word) : Statement (.rsv7 b n) := reqOp_append n b _

end Sys2Proof.Laws.EncodeOp
end

