-- ==== Sys2Proof/Tests/Slice0.lean ====
section
/-!
SUPPORT. The model's own tests: the checks of well-formedness, words written out from the encoding tables, the vectors of
95_test_vectors.md one request at a time, and for each statement with hypotheses a witness that meets them.
-/
namespace Sys2Proof.Tests

open Sys2Proof.Machine

/-! ## Helpers -/

/-- What a next state shows; nothing for a fault or a refusal. -/
def after {α : Type} (o : Res State) (f : State → α) : Option α :=
  match o with
  | .next t => some (f t)
  | .fault _ => none
  | .refused _ => none

theorem of_after {α : Type} {o : Res State} {f : State → α} {a : α} (h : after o f = some a) :
    ∃ t, o = .next t ∧ f t = a := by
  cases o with
  | next t => exact ⟨t, rfl, Option.some.inj h⟩
  | fault r => cases h
  | refused r => cases h

/-- S0 under EX with a poll limit, memory, the link partner's answers (then FF), padding bytes 00, and the pace of the
peripheral: `pace` steps before each action while a frame runs. -/
def s0 (limit : Option Nat) (mem : Memory) (answers : List Byte) (pace : Nat) : State :=
  { State.reset with
    cfg := { Config.ex with pollLimit := limit }
    mem := mem
    env := { Env.powerUp with
      answers := ⟨answers, some 0xFF⟩, rxPad := ⟨[], some 0⟩, sched := ⟨[], some pace⟩ } }

/-- S0 with moves of the host waiting. -/
def s0With (moves : List HostMove) : State :=
  { s0 none [] [] 256 with env := { Env.powerUp with inbox := moves } }

/-- How a request has ended: the status, and whether the block is still busy. -/
def ending (t : State) : Bool × Status := (t.busy, t.block.status)

/-! ## Well-formedness: a term that each check refuses -/

theorem test_wf_op : (Instr.rsv5 0x1000 4).opDefined = false := by decide
theorem test_wf_op_rsv6 : (Instr.rsv6 0 0).wellFormed = false := by decide
theorem test_wf_op_rsv7 : (Instr.rsv7 0 0).wellFormed = false := by decide
theorem test_wf_null : (Instr.send 0 4).bufferNotNull = false := by decide
theorem test_wf_space : (Instr.recv 0xFFFFFFFF 2).bufferInSpace = false := by decide
theorem test_wf_space_edge : (Instr.send 0xFFFFFFFF 1).wellFormed = true := by decide
theorem test_wf_null_empty : (Instr.cmd53w 0 0).wellFormed = true := by decide
theorem test_wf_cmd0_ignores : (Instr.cmd0 0 7).wellFormed = true := by decide

theorem test_cfg_ex : Config.ex.wf = true := by decide
theorem test_cfg_poll : { Config.ex with pollLimit := some 7 }.wfPoll = false := by decide
theorem test_cfg_depths : { Config.ex with txDepth := 7 }.wfDepths = false := by decide
theorem test_cfg_ctl : { Config.ex with xchMask := 0x00010000#32 }.wfCtl = false := by decide
theorem test_cfg_sta : { Config.ex with txeBit := 1 }.wfSta = false := by decide
theorem test_cfg_map : { Config.ex with offRxd := 0x8 }.wfMap = false := by decide

/-! ## Decoding: words written out from R81 and R80 -/

theorem test_decode_send :
    decode (0b00000000000000000000000000000101_00000000000000000010000000000000_000#67) = .send 0x2000 5 := by decide
theorem test_decode_recv :
    decode (0b00000000000000000000000000000011_00000000000000000011000000000000_001#67) = .recv 0x3000 3 := by decide
theorem test_decode_cmd0 :
    decode (0b00000000000000000000000000000111_00000000000000000000000000000000_010#67) = .cmd0 0 7 := by decide
theorem test_decode_cmd53r :
    decode (0b00000000000000000000000000100000_11111111111111111111111111110000_011#67) = .cmd53r 0xFFFFFFF0 0x20 := by
  decide
theorem test_decode_cmd53w :
    decode (0b00000000000000000000000000101000_00000000000000000001000000000000_100#67) = .cmd53w 0x1000 40 := by decide
theorem test_decode_rsv5 :
    decode (0b00000000000000000000000000000100_00000000000000000001000000000000_101#67) = .rsv5 0x1000 4 := by decide
theorem test_decode_rsv6 : decode (0b110#67) = .rsv6 0 0 := by decide
theorem test_decode_rsv7 : decode (0b111#67) = .rsv7 0 0 := by decide
theorem test_decode_beyond : decodeBits (2 ^ 67) = .error .bitsBeyondRequest := by decide
theorem test_asm_cmd53w : (Instr.cmd53w 0x1000 40).asmLine = some "CMD53W 4096, 40" := by decide

/-! ## Vectors of 95_test_vectors.md -/

/-- P2's memory. -/
def memP2 : Memory :=
  [(0x2000, 0x11), (0x2001, 0x22), (0x2002, 0x33), (0x2003, 0x44), (0x2004, 0x55),
   (0x3000, 0xEE), (0x3001, 0xEE), (0x3002, 0xEE), (0x3003, 0xEE)]

/-- P2, the SEND: its register accesses, in order. -/
theorem test_send_p2 :
    after (exec (.send 0x2000 5) (s0 none memP2 [0, 0, 0, 0, 0] 256)) State.mmioEvents = some
      [.mmioRead .ctl 0x00000001, .mmioWrite .ctl 0x00000001, .mmioRead .sta 5, .mmioRead .sta 5,
       .mmioRead .ctl 0x00000001, .mmioWrite .ctl 0x00040001,
       .mmioRead .sta 5, .mmioWrite .txd 0x44332211, .mmioRead .sta 1, .mmioWrite .txd 0x00000055,
       .mmioRead .ctl 0x00040001, .mmioWrite .ctl 0x00040401,
       .mmioRead .sta 4, .mmioRead .rxd 0, .mmioRead .sta 4, .mmioRead .rxd 0] := by decide

/-- L2.2, `SEND 0xFFFFFFFF, 1`: the buffer that ends at 2^32. -/
theorem test_send_top_of_memory :
    after (exec (.send 0xFFFFFFFF 1) (s0 none [(0xFFFFFFFF, 0x7E)] [] 256))
      (fun t => (ending t, t.wireOut, t.periph.ctl)) = some ((false, .ok), [0x7E], 0x00000401) := by decide

/-- P2, the RECV: the bytes stored, the byte past them, and the link. -/
theorem test_recv_p2 :
    after (exec (.recv 0x3000 3) (s0 none memP2 [0xA1, 0xA2, 0xA3] 256))
      (fun t => (ending t, t.mem.bytes 0x3000 4, t.wireOut, t.periph.ctl))
      = some ((false, .ok), [0xA1, 0xA2, 0xA3, 0xEE], [0xFF, 0xFF, 0xFF], 0x00020401) := by decide

/-- L2.3: RECV of 40 bytes with POLL_LIMIT 3 and the peripheral stuck from the second burst's B6 on. -/
theorem test_recv_stuck_at_second_burst :
    after (exec (.recv 0x3000 40)
        { s0 (some 3) [(0x301F, 0xEE), (0x3020, 0xEE)] [] 256 with
          env := { Env.powerUp with answers := ⟨[], some 0x5A⟩, rxPad := ⟨[], some 0⟩, sched := ⟨[256], some 0⟩ } })
      (fun t => (ending t, t.mem.bytes 0x301E 4, t.block.polls)) =
      some ((false, .deviceNotResponding), [0x5A, 0x5A, 0xEE, 0], 3) := by decide +kernel

/-- P1, the CMD0: status, response, link. -/
theorem test_cmd0_ok :
    after (exec (.cmd0 0 0) (s0 none [] (List.replicate 8 0xFF ++ [0x01]) 256))
      (fun t => (ending t, t.block.resp, t.wireOut, t.periph.ctl))
      = some ((false, .ok), 0x01, [0xFF, 0x40, 0, 0, 0, 0, 0x95, 0xFF, 0xFF], 0x00000401) := by decide

/-- P4, step 3: the trace of a CMD0 under a stuck peripheral with POLL_LIMIT 3. -/
theorem test_cmd0_stuck :
    after (exec (.cmd0 0 0) (s0 (some 3) [] [] 0)) (fun t => (ending t, t.periph.tx, t.mmioEvents))
      = some ((false, .deviceNotResponding), [0x000040FF, 0xFF950000],
        [.mmioRead .ctl 0x00000001, .mmioWrite .ctl 0x00000001, .mmioRead .sta 5, .mmioRead .sta 5,
         .mmioRead .ctl 0x00000001, .mmioWrite .ctl 0x00070001,
         .mmioRead .sta 5, .mmioWrite .txd 0x000040FF, .mmioRead .sta 1, .mmioWrite .txd 0xFF950000,
         .mmioRead .ctl 0x00070001, .mmioWrite .ctl 0x00070401,
         .mmioRead .sta 1, .mmioRead .sta 1, .mmioRead .sta 1]) := by decide

/-- L2.5: CMD53R of 3 bytes with the partner answering q0 to q16 stores q14, q15, q16. -/
theorem test_cmd53r_three :
    after (exec (.cmd53r 0x5000 3) (s0 none [] ((List.range 17).map fun k => BitVec.ofNat 8 (0x80 + k)) 256))
      (fun t => (ending t, t.mem.bytes 0x5000 4, t.wireOut))
      = some ((false, .ok), [0x8E, 0x8F, 0x90, 0],
        [0xFF, 0xFF, 0xFF, 0x75, 0x10, 0, 0, 3, 1, 0xFF, 0xFF, 0xFF, 0xFF, 0xFF, 0xFF, 0xFF, 0xFF,
         0xFF, 0xFF, 0xFF, 0xFF]) := by decide +kernel

/-- L2.7: `op=011 buf=0xFFFFFFF0 size=0x20` wraps. -/
theorem test_cmd53r_wraps :
    after (exec (.cmd53r 0xFFFFFFF0 0x20) (s0 none [] [] 256)) (fun t => (ending t, t.trace))
      = some ((false, .illegalRequest), [.complete .illegalRequest]) := by decide

/-- R155's example: CMD53W of `AA BB`. -/
theorem test_cmd53w_two :
    after (exec (.cmd53w 0x1000 2) (s0 none [(0x1000, 0xAA), (0x1001, 0xBB)] [] 256))
      (fun t => (ending t, t.wireOut, t.periph.ctl))
      = some ((false, .ok),
        [0xFF, 0xFF, 0xFF, 0x75, 0x90, 0, 0, 2, 1, 0xFF, 0xFF, 0xFF, 0xFF, 0xFE, 0xAA, 0xBB, 0, 0, 0xFF, 0xFF],
        0x00030401) := by decide +kernel

/-- L2.7: CMD53W 40 with one TX word left, a stuck peripheral and POLL_LIMIT 2. -/
theorem test_cmd53w_tx_word_left :
    after (exec (.cmd53w 0x1000 40)
        { s0 (some 2) [] [] 0 with periph := { Periph.powerUp with tx := [0x12345678] } })
      (fun t => (ending t, t.mmioEvents))
      = some ((false, .deviceNotResponding),
        [.mmioRead .ctl 1, .mmioWrite .ctl 1, .mmioRead .sta 1, .mmioRead .sta 1, .mmioRead .sta 1]) := by decide

/-- L2.7: the reserved ops. -/
theorem test_rsv5 :
    after (exec (.rsv5 0x1000 4) (s0 none [] [] 256)) (fun t => (ending t, t.trace))
      = some ((false, .illegalRequest), [.complete .illegalRequest]) := by decide
theorem test_rsv6 :
    after (exec (.rsv6 0 0) (s0 none [] [] 256)) (fun t => (ending t, t.block.op))
      = some ((false, .illegalRequest), 0b110#3) := by decide
theorem test_rsv7 :
    after (exec (.rsv7 0 0) (s0 none [] [] 256)) (fun t => (ending t, t.block.op))
      = some ((false, .illegalRequest), 0b111#3) := by decide

/-- L2.1, the drain: 4 stale words with POLL_LIMIT 3 give up after 3 RXD reads and 4 STA reads. -/
theorem test_drain_gives_up :
    after (exec (.send 0x2000 1)
        { s0 (some 3) memP2 [] 256 with periph := { Periph.powerUp with rx := [1, 2, 3, 4] } })
      (fun t => (ending t, t.mmioEvents))
      = some ((false, .deviceNotResponding),
        [.mmioRead .ctl 1, .mmioWrite .ctl 1, .mmioRead .sta 4, .mmioRead .rxd 1, .mmioRead .sta 4,
         .mmioRead .rxd 2, .mmioRead .sta 4, .mmioRead .rxd 3, .mmioRead .sta 4]) := by decide

/-- L2.1: the word packing of the write header of a chunk of 511 bytes, and L1.6: the chunks of 1600 bytes. -/
theorem test_header_511 :
    (header false 511#9).toList
      = [0xFF, 0xFF, 0xFF, 0x75, 0x90, 0, 0x01, 0xFF, 0x01, 0xFF, 0xFF, 0xFF, 0xFF, 0xFE] := by decide
theorem test_chunks_1600 : chunkLens 1600 = [511, 511, 511, 67] := by decide

/-- R183. -/
theorem test_enum_numbers :
    [GpioOp.disable, .enable, .high, .low].map GpioOp.code = [0, 1, 2, 3]
    ∧ [GpioId.resetD, .resetA, .power].map GpioId.code = [0, 1, 2]
    ∧ [IrqOp.enable, .disable, .acknowledge, .status].map IrqOp.code = [0, 1, 2, 3] := by decide

/-- R185: the host may reset a request, and the request issued again. -/
theorem test_reset_again :
    after (andThen (step ((setResets [5, 7] (s0 (some 8) [] [] 256)).withFetchWord 8 2)) fun t => step (t.withFetchWord 8 2))
      (fun t => (t.busy, t.completions, t.env.resets, t.mmioEvents.length)) = some (false, [], [], 6) := by decide

/-- R216: a CMD0 accepted while a frame of 8 bytes still runs: the byte the frame sends next is any value. -/
theorem test_unsettled_link_byte :
    after (frameByte ⟨8, 1, 0x000040FF, 0⟩ (accept 0b010#3 0 0 { s0 (some 8) [] [] 256 with
      periph := ⟨0x00070401, [0x000040FF, 0xFF950000], [], some ⟨8, 1, 0x000040FF, 0⟩, false⟩ })) State.wireOut
      = some [Config.freeByte 1] := by rfl

/-- R40: RFC written all ones empties the RX FIFO and leaves the TX FIFO. -/
theorem test_rx_fifo_clear :
    (writeCtl 0x00000201 { s0 (some 8) [] [] 256 with periph := { Periph.powerUp with rx := [1, 2], tx := [3] } }).periph
      = { Periph.powerUp with tx := [3] } := by decide

/-- The host's register port reaches the four registers and faults elsewhere. -/
theorem test_host_read_sta :
    after (step (s0With [.mmioRead 0x4])) State.mmioEvents = some [.mmioRead .sta 5] := by decide
theorem test_host_unmapped :
    hostMmioRead 0x10 State.reset = .fault (.mmioUnmapped 0x10) := by rfl

/-! ## Witnesses: for each statement with hypotheses, states and operands that meet them all -/

theorem of_ending {i : Instr} {s : State} {b : Bool} {st : Status}
    (h : after (exec i s) ending = some (b, st)) :
    ∃ t, exec i s = .next t ∧ t.busy = b ∧ t.block.status = st := by
  obtain ⟨t, ht, he⟩ := of_after h
  exact ⟨t, ht, congrArg Prod.fst he, congrArg Prod.snd he⟩

theorem ready_s0 {limit : Option Nat} {mem : Memory} {answers : List Byte} {pace : Nat}
    (h : { Config.ex with pollLimit := limit }.wf = true) : (s0 limit mem answers pace).Ready :=
  ⟨rfl, rfl, h, rfl, rfl, rfl⟩

theorem healthy_s0 {limit : Option Nat} {mem : Memory} {answers : List Byte} {pace : Nat} (h : 1 ≤ pace) :
    (s0 limit mem answers pace).healthy :=
  ⟨fun _ hk => absurd hk List.not_mem_nil, pace, rfl, h⟩

theorem stuck_s0 {limit : Option Nat} {mem : Memory} {answers : List Byte} :
    (s0 limit mem answers 0).stuck :=
  ⟨fun _ hk => absurd hk List.not_mem_nil, rfl⟩

theorem staleFits_s0 {limit : Option Nat} {mem : Memory} {answers : List Byte} {pace : Nat} :
    (s0 limit mem answers pace).staleFits :=
  fun _ _ => Nat.zero_le _

/-- A healthy start with the smallest poll limit that EX admits. -/
def good : State := s0 (some 8) memP2 [] 256

/-- The same with the CMD0 response at the ninth byte. -/
def goodCmd0 : State := s0 (some 8) memP2 (List.replicate 8 0xFF ++ [0x01]) 256

theorem memWf_good : good.mem.wf = true := by decide

theorem ready_good : good.Ready := ready_s0 (by decide)
theorem ready_goodCmd0 : goodCmd0.Ready := ready_s0 (by decide)

/-- A busy block: a CMD0 in the middle of its first burst's frame, the peripheral taking one step at a time. -/
def busyState : State :=
  { s0 (some 8) [] [] 1 with
    block := { Block.reset with
      op := 0b010#3, cfl := .c0Send, wte := .b7Rx, wSrc := .cmd0f, wSize := 8, blen := 8, phase := .start }
    periph := ⟨0x00070401, [0x000040FF, 0xFF950000], [], some ⟨8, 0, 0, 0⟩, false⟩ }

/-! ### Steps and reset -/

theorem witness_ResetAbandonsRequestWithoutStrobe_busy :
    ∃ (s : State) (later : List Nat), s.busy = true ∧ s.env.resets = 0 :: later :=
  ⟨setResets [0, 3] busyState, [3], by decide, rfl⟩

theorem witness_ResetAbandonsRequestWithoutStrobe_idle :
    ∃ (s : State) (rest : List HostMove),
      s.busy = false ∧ s.env.inbox = .reset :: rest ∧ s.periph.frame = none :=
  ⟨s0With [.reset], [], by decide, rfl, rfl⟩

theorem inv_of_idle {s : State} (hc : s.cfg.wf = true) (hm : s.mem.wf = true) (ht : s.periph.tx = [])
    (hr : s.periph.rx = []) (hl : s.periph.ctl &&& clearMask s.cfg = 0) (hf : s.periph.frame = none)
    (hi : s.block.cfl = .idle) (hw : s.block.wte = .none) : s.Inv where
  cfgWf := hc
  memWf := hm
  txFits := by rw [ht]; exact Nat.zero_le _
  rxFits := by rw [hr]; exact Nat.zero_le _
  ctlClear := hl
  frameOk := fun f h => by rw [hf] at h; cases h
  callOk := fun h => absurd hw h
  burstOk := by unfold burstOk; rw [hw]; trivial
  requestOk := by unfold requestOk; rw [hi]; trivial
  chunkOk := by unfold chunkOk; rw [hi]; trivial

theorem witness_StepKeepsTheInvariant :
    ∃ s t : State, s.Inv ∧ step s = .next t ∧ t.block.status = .protocolMismatch ∧ t.trace ≠ [] := by
  obtain ⟨t, h, he⟩ := of_after (show after
    (step { good with env := { good.env with inbox := [.request (encode (.cmd0 0 0))] } })
    (fun t => (t.block.status, decide (t.trace ≠ []))) = some (.protocolMismatch, true) by decide)
  exact ⟨_, t, inv_of_idle (by decide) (by decide) rfl rfl (by decide) rfl rfl rfl, h, congrArg Prod.fst he,
    of_decide_eq_true (congrArg Prod.snd he)⟩

theorem witness_StepRunsTheDecodedRequest :
    ∃ (s : State) (w : ReqWord) (rest : List HostMove), s.busy = false ∧ s.env.inbox = .request w :: rest :=
  ⟨s0With [.request 4, .reset], 4, [.reset], by decide, rfl⟩

theorem witness_PlacedRequestRunsNext :
    decodeTableWord 8 4 = some (.cmd53w 0 0)
    ∧ decodeTableWord 72 (40 * 2 ^ 35 + 0x1000 * 2 ^ 3 + 4) = some (.cmd53w 0x1000 40) := by decide

theorem witness_StrobeWhileBusyHasNoEffect : ∃ s : State, s.busy = true := ⟨busyState, by decide⟩

/-- A tick with an exchange on the link and one access. -/
theorem witness_TickMakesAtMostOneAccess :
    ∃ s t : State, tick s = .next t ∧ t.trace = [.wire 0xFF 0xFF, .mmioRead .sta 1] := by
  obtain ⟨t, h, he⟩ := of_after (show after (tick busyState) State.trace
    = some [.wire 0xFF 0xFF, .mmioRead .sta 1] by decide)
  exact ⟨_, t, h, he⟩

/-- A tick that ends the request: an exchange between the last poll and the completion strobe. -/
theorem witness_TickMakesAtMostOneAccess_end :
    ∃ s t : State, tick s = .next t
      ∧ t.trace = [.wire 0xFF 0xFF, .complete .deviceNotResponding] := by
  obtain ⟨t, h, he⟩ := of_after (show after (tick
    { busyState with block := { busyState.block with polls := 8, phase := .giveUp } }) State.trace
    = some [.wire 0xFF 0xFF, .complete .deviceNotResponding] by decide)
  exact ⟨_, t, h, he⟩

/-! ### Requests that end at CHECK -/

theorem witness_ReservedOpsEndIllegalWithNoAccess :
    ∃ s : State, s.busy = false ∧ s.env.resets = [] ∧ s.periph.frame = none
      ∧ ∀ (buf size : Word), ∃ i : Instr, i = .rsv5 buf size ∨ i = .rsv6 buf size ∨ i = .rsv7 buf size :=
  ⟨good, by decide, rfl, rfl, fun b n => ⟨.rsv7 b n, .inr (.inr rfl)⟩⟩

/-- The null buffer, and the first size that passes 2^32. -/
theorem witness_BadBuffersEndIllegalWithNoAccess :
    good.busy = false ∧ good.env.resets = [] ∧ good.periph.frame = none
    ∧ (4 : Word) ≠ 0 ∧ ((0 : Word) = 0 ∨ 2 ^ 32 < (0 : Word).toNat + (4 : Word).toNat)
    ∧ (2 : Word) ≠ 0 ∧ ((0xFFFFFFFF : Word) = 0 ∨ 2 ^ 32 < (0xFFFFFFFF : Word).toNat + (2 : Word).toNat)
    ∧ ¬ 2 ^ 32 < (0xFFFFFFFF : Word).toNat + (1 : Word).toNat := by decide

theorem witness_SizeZeroEndsOkWithNoAccess :
    ∃ (s : State) (buf : Word) (i : Instr),
      (i = .send buf 0 ∨ i = .recv buf 0 ∨ i = .cmd53r buf 0 ∨ i = .cmd53w buf 0)
      ∧ s.busy = false ∧ s.env.resets = [] ∧ s.periph.frame = none :=
  ⟨good, 0, .cmd53w 0 0, .inr (.inr (.inr rfl)), by decide, rfl, rfl⟩

/-! ### Statuses -/

theorem witness_IllegalExactlyWhenNotWellFormed :
    ∃ (i j : Instr) (s t u : State), s.busy = false ∧ s.env.resets = []
      ∧ exec i s = .next t ∧ t.busy = false ∧ t.block.status = .illegalRequest ∧ i.wellFormed = false
      ∧ exec j s = .next u ∧ u.busy = false ∧ u.block.status = .ok ∧ j.wellFormed = true := by
  obtain ⟨t, h1, h2, h3⟩ := of_ending (show after (exec (.recv 0 1) good) ending = some (false, .illegalRequest) by
    decide)
  obtain ⟨u, k1, k2, k3⟩ := of_ending (show after (exec (.send 0x2000 5) good) ending = some (false, .ok) by decide)
  exact ⟨_, _, good, t, u, by decide, rfl, h1, h2, h3, by decide, k1, k2, k3, by decide⟩

theorem witness_StatusesHaveTheirCauses :
    ∃ (s t s' t' s'' t'' : State),
      (s.busy = false ∧ s.env.resets = [] ∧ exec (.cmd0 0 0) s = .next t ∧ t.busy = false
        ∧ t.block.status = .protocolMismatch)
      ∧ (s'.busy = false ∧ s'.env.resets = [] ∧ exec (.cmd0 0 0) s' = .next t' ∧ t'.busy = false
        ∧ t'.block.status = .deviceNotResponding)
      ∧ (s''.busy = false ∧ s''.env.resets = [] ∧ exec (.cmd0 0 0) s'' = .next t'' ∧ t''.busy = false
        ∧ t''.block.status = .ok) := by
  obtain ⟨t, a1, a2, a3⟩ := of_ending (show after (exec (.cmd0 0 0) good) ending
    = some (false, .protocolMismatch) by decide)
  obtain ⟨t', b1, b2, b3⟩ := of_ending (show after (exec (.cmd0 0 0) (s0 (some 8) [] [] 0)) ending
    = some (false, .deviceNotResponding) by decide)
  obtain ⟨t'', c1, c2, c3⟩ := of_ending (show after (exec (.cmd0 0 0) goodCmd0) ending = some (false, .ok) by decide)
  exact ⟨_, t, _, t', _, t'', ⟨by decide, rfl, a1, a2, a3⟩, ⟨by decide, rfl, b1, b2, b3⟩, ⟨by decide, rfl, c1, c2, c3⟩⟩

theorem witness_CompletionStrobeIsGivenOnce_ended :
    ∃ (i : Instr) (s t : State), s.busy = false ∧ s.env.resets = [] ∧ exec i s = .next t ∧ t.busy = false := by
  obtain ⟨t, h1, h2, _⟩ := of_ending (show after (exec (.send 0x2000 5) good) ending = some (false, .ok) by decide)
  exact ⟨_, good, t, by decide, rfl, h1, h2⟩

/-- A CMD0 that polls RXE for ever: a stuck peripheral with POLL_LIMIT = UNBOUNDED. -/
structure Polling (s : State) : Prop where
  cfg : s.cfg = Config.ex
  cfl : s.block.cfl = .c0Send
  wte : s.block.wte = .b7Rx
  phase : s.block.phase = .start
  periph : s.periph = ⟨0x00070401, [0x000040FF, 0xFF950000], [], some ⟨8, 0, 0, 0⟩, false⟩
  sched : s.env.sched = ⟨[], some 0⟩
  staOther : s.env.staOther = ⟨[], some 0⟩
  resets : s.env.resets = []

theorem waitPoll_fails {t : StaTest} {f : State → State} {s : State}
    (h : t.holds s.cfg (readSta s).1 = false) (hp : s.cfg.pollLimit = none) :
    waitPoll t f s
      = .next ((readSta s).2.withBlock { (readSta s).2.block with polls := (readSta s).2.block.polls + 1 }) := by
  unfold waitPoll
  have hq : ∀ p, pollsSpent (readSta s).2.cfg p = false := fun p => by
    have : (readSta s).2.cfg = s.cfg := rfl
    unfold pollsSpent
    rw [this, hp]
  simp only [h, Bool.false_eq_true, if_false]
  rw [if_neg (by simpa using hq _)]

theorem tick_polling {s : State} (h : Polling s) : ∃ t, tick s = .next t ∧ Polling t := by
  obtain ⟨cfg, block, ctx, periph, mem, irq, gpio, env, trace⟩ := s
  obtain ⟨op, buf, size, cur, rem, chunk, hdr, resp, wDir, wSrc, wBase, wSize, wOff, blen, wj, polls, cfl, wte,
    status, phase, latch⟩ := block
  obtain ⟨inbox, answers, sched, staOther, rxPad, resets, race, draws⟩ := env
  obtain ⟨rfl, rfl, rfl, rfl, rfl, rfl, rfl, rfl⟩ := h
  refine ⟨_, waitPoll_fails (show StaTest.holds Config.ex .notRxe (staValue Config.ex
    ⟨0x00070401, [0x000040FF, 0xFF950000], [], some ⟨8, 0, 0, 0⟩, false⟩ 0) = false by decide) rfl, ?_⟩
  exact ⟨rfl, rfl, rfl, rfl, rfl, rfl, rfl, rfl⟩

theorem runTicks_polling : ∀ (n : Nat) {s : State}, Polling s → ∃ t, runTicks n s = .next t ∧ Polling t := by
  intro n
  induction n with
  | zero => intro s h; exact ⟨s, rfl, h⟩
  | succ n ih =>
    intro s h
    obtain ⟨t, ht, hp⟩ := tick_polling h
    have hb : s.busy = true := by unfold State.busy; rw [h.cfl]; rfl
    obtain ⟨u, hu, hq⟩ := ih hp
    exact ⟨u, by rw [runTicks_busy n hb, ht, andThen_next, hu], hq⟩

/-- The CMD0 has reached its RXE wait after this many ticks. -/
theorem polling_reached : ∃ t, runTicks 23 (accept 0b010#3 0 0 (s0 none [] [] 0)) = .next t ∧ Polling t :=
  by
  obtain ⟨t, h, he⟩ := of_after (show after (runTicks 23 (accept 0b010#3 0 0 (s0 none [] [] 0))) (fun s => decide
    (s.cfg = Config.ex ∧ s.block.cfl = .c0Send ∧ s.block.wte = .b7Rx ∧ s.block.phase = .start
      ∧ s.periph = ⟨0x00070401, [0x000040FF, 0xFF950000], [], some ⟨8, 0, 0, 0⟩, false⟩
      ∧ s.env.sched = ⟨[], some 0⟩ ∧ s.env.staOther = ⟨[], some 0⟩ ∧ s.env.resets = [])) = some true by decide)
  obtain ⟨h1, h2, h3, h4, h5, h6, h7, h8⟩ := of_decide_eq_true he
  exact ⟨t, h, h1, h2, h3, h4, h5, h6, h7, h8⟩

theorem witness_CompletionStrobeIsGivenOnce_busy :
    ∃ (i : Instr) (s t : State), s.busy = false ∧ s.env.resets = [] ∧ exec i s = .next t ∧ t.busy = true := by
  obtain ⟨t, ht, hp⟩ := polling_reached
  obtain ⟨u, hu, hq⟩ := runTicks_polling (tickFuel - 23) hp
  refine ⟨.cmd0 0 0, s0 none [] [] 0, u, by decide, rfl, ?_, by unfold State.busy; rw [hq.cfl]; rfl⟩
  rw [exec_eq_runRequest, runRequest_of_idle _ _ _ (by decide),
    show tickFuel = 23 + (tickFuel - 23) by decide, runTicks_add]
  exact (congrArg (andThen · _) ht).trans hu

/-! ### What each request does -/

theorem witness_EveryRequestAnswersAndEndsWhenPollsAreLimited :
    ∃ s u : State, s.Ready ∧ s.cfg.pollLimit ≠ none ∧ u.Ready ∧ u.cfg.pollLimit = none :=
  ⟨good, s0 none [] [] 0, ready_good, by decide, ready_s0 (by decide), rfl⟩

theorem witness_SendThatEndsOkHasSentTheBuffer :
    ∃ (s t : State) (buf size : Word), s.Ready ∧ s.env.race = false
      ∧ exec (.send buf size) s = .next t ∧ t.busy = false ∧ t.block.status = .ok ∧ size ≠ 0 := by
  obtain ⟨t, h1, h2, h3⟩ := of_ending (show after (exec (.send 0x2000 5) good) ending = some (false, .ok) by decide)
  exact ⟨good, t, _, _, ready_good, rfl, h1, h2, h3, by decide⟩

theorem witness_RecvThatEndsOkHasStoredTheReceivedBytes :
    ∃ (s t : State) (buf size : Word), s.Ready ∧ s.mem.wf = true
      ∧ exec (.recv buf size) s = .next t ∧ t.busy = false ∧ t.block.status = .ok ∧ size ≠ 0 := by
  obtain ⟨t, h1, h2, h3⟩ := of_ending (show after (exec (.recv 0x3000 3) good) ending = some (false, .ok) by decide)
  exact ⟨good, t, _, _, ready_good, memWf_good, h1, h2, h3, by decide⟩

theorem witness_Cmd0EvaluatesTheNinthByte :
    ∃ s t s' t' : State,
      (s.Ready ∧ exec (.cmd0 0 7) s = .next t ∧ t.busy = false ∧ t.block.status = .ok)
      ∧ (s'.Ready ∧ exec (.cmd0 0 7) s' = .next t' ∧ t'.busy = false ∧ t'.block.status = .protocolMismatch) := by
  obtain ⟨t, a1, a2, a3⟩ := of_ending (show after (exec (.cmd0 0 7) goodCmd0) ending = some (false, .ok) by decide)
  obtain ⟨t', b1, b2, b3⟩ := of_ending (show after (exec (.cmd0 0 7) good) ending
    = some (false, .protocolMismatch) by decide)
  exact ⟨_, t, _, t', ⟨ready_goodCmd0, a1, a2, a3⟩, ⟨ready_good, b1, b2, b3⟩⟩

theorem witness_Cmd53ReadThatEndsOkHasStoredThePayload :
    ∃ (s t : State) (buf size : Word), s.Ready ∧ s.mem.wf = true
      ∧ exec (.cmd53r buf size) s = .next t ∧ t.busy = false ∧ t.block.status = .ok ∧ size ≠ 0 := by
  obtain ⟨t, h1, h2, h3⟩ := of_ending (show after (exec (.cmd53r 0x3000 2) good) ending = some (false, .ok) by
    decide +kernel)
  exact ⟨good, t, _, _, ready_good, memWf_good, h1, h2, h3, by decide⟩

theorem witness_Cmd53WriteThatEndsOkHasSentItsImage :
    ∃ (s t : State) (buf size : Word), s.Ready ∧ s.env.race = false
      ∧ exec (.cmd53w buf size) s = .next t ∧ t.busy = false ∧ t.block.status = .ok ∧ size ≠ 0 := by
  obtain ⟨t, h1, h2, h3⟩ := of_ending (show after (exec (.cmd53w 0x2000 2) good) ending = some (false, .ok) by
    decide +kernel)
  exact ⟨good, t, _, _, ready_good, rfl, h1, h2, h3, by decide⟩

/-- The premises of the completion statements, with a buffer that ends exactly at 2^32. -/
theorem completion_premises :
    good.Ready ∧ good.staleFits ∧ good.periph.rx.length < 2 ^ 32 ∧ good.healthy ∧ good.env.race = false
      ∧ good.mem.wf = true :=
  ⟨ready_good, staleFits_s0, by decide, healthy_s0 (by decide), rfl, memWf_good⟩

theorem witness_SendCompletes :
    (good.Ready ∧ good.staleFits ∧ good.periph.rx.length < 2 ^ 32 ∧ good.healthy ∧ good.env.race = false
      ∧ good.mem.wf = true)
    ∧ (Instr.send 0xFFFFFF00 0x100).wellFormed = true := ⟨completion_premises, by decide⟩
theorem witness_RecvCompletes :
    (good.Ready ∧ good.staleFits ∧ good.periph.rx.length < 2 ^ 32 ∧ good.healthy ∧ good.env.race = false
      ∧ good.mem.wf = true)
    ∧ (Instr.recv 0xFFFFFFFF 1).wellFormed = true := ⟨completion_premises, by decide⟩
theorem witness_Cmd0Completes :
    goodCmd0.Ready ∧ goodCmd0.staleFits ∧ goodCmd0.periph.rx.length < 2 ^ 32 ∧ goodCmd0.healthy
    ∧ ∃ (ins rest : List Byte) (b : Byte), goodCmd0.env.answers.items = ins ++ b :: rest ∧ ins.length = 8 :=
  ⟨ready_goodCmd0, staleFits_s0, by decide, healthy_s0 (by decide), List.replicate 8 0xFF, [], 0x01, rfl, rfl⟩
theorem witness_Cmd53ReadCompletes :
    (good.Ready ∧ good.staleFits ∧ good.periph.rx.length < 2 ^ 32 ∧ good.healthy ∧ good.env.race = false
      ∧ good.mem.wf = true)
    ∧ (Instr.cmd53r 0x5000 600).wellFormed = true := ⟨completion_premises, by decide⟩
theorem witness_Cmd53WriteCompletes :
    (good.Ready ∧ good.staleFits ∧ good.periph.rx.length < 2 ^ 32 ∧ good.healthy ∧ good.env.race = false
      ∧ good.mem.wf = true)
    ∧ (Instr.cmd53w 0x4000 600).wellFormed = true := ⟨completion_premises, by decide⟩

theorem witness_StuckPeripheralEndsDeviceNotResponding :
    ∃ (i : Instr) (s : State) (n : Nat), s.Ready ∧ s.staleFits ∧ s.stuck ∧ s.cfg.pollLimit = some n
      ∧ i.wellFormed = true ∧ i.usesBuffer = true ∧ i.size ≠ 0 :=
  ⟨.cmd53r 0x5000 600, s0 (some 8) [] [] 0, 8, ready_s0 (by decide), staleFits_s0, stuck_s0, rfl, by decide, rfl,
    by decide⟩

theorem witness_StuckPeripheralHangsWhenPollsAreUnbounded :
    ∃ (i : Instr) (s : State), s.Ready ∧ s.stuck ∧ s.cfg.pollLimit = none
      ∧ i.wellFormed = true ∧ i.usesBuffer = true ∧ i.size ≠ 0 :=
  ⟨.send 0x2000 5, s0 none [] [] 0, ready_s0 (by decide), stuck_s0, rfl, by decide, rfl, by decide⟩

/-! ### Frames and order -/

theorem witness_RequestsKeepFlagsAndCollaborators :
    ∃ (i : Instr) (s t : State), s.env.resets = [] ∧ exec i s = .next t := by
  obtain ⟨t, h, _⟩ := of_ending (show after (exec (.cmd0 0 0) good) ending = some (false, .protocolMismatch) by decide)
  exact ⟨_, good, t, rfl, h⟩

theorem witness_SendingRequestsKeepMemory :
    ∃ (i : Instr) (s t : State) (buf size : Word),
      (i = .send buf size ∨ i = .cmd0 buf size ∨ i = .cmd53w buf size ∨ i = .rsv5 buf size ∨ i = .rsv6 buf size
        ∨ i = .rsv7 buf size) ∧ exec i s = .next t ∧ s.busy = false := by
  obtain ⟨t, h, _⟩ := of_ending (show after (exec (.send 0x2000 5) good) ending = some (false, .ok) by decide)
  exact ⟨_, good, t, 0x2000, 5, .inl rfl, h, by decide⟩

/-- The addresses just below and just past the buffer. -/
theorem witness_ReceivingRequestsKeepMemoryOutsideTheBuffer :
    ∃ (i : Instr) (s t : State) (buf size : Word), (i = .recv buf size ∨ i = .cmd53r buf size)
      ∧ exec i s = .next t ∧ s.busy = false
      ∧ 0x2FFF < buf.toNat ∧ buf.toNat + size.toNat ≤ 0x3003 := by
  obtain ⟨t, h, _⟩ := of_ending (show after (exec (.recv 0x3000 3) good) ending = some (false, .ok) by decide)
  exact ⟨_, good, t, 0x3000, 3, .inl rfl, h, by decide, by decide, by decide⟩

theorem witness_RequestsKeepTheRegistersTheyDoNotUse :
    ∃ (i j : Instr) (s t u : State), s.busy = false ∧ s.env.resets = []
      ∧ exec i s = .next t ∧ i.op ≠ 0b011#3 ∧ i.op ≠ 0b100#3
      ∧ exec j s = .next u ∧ j.op ≠ 0b010#3 := by
  obtain ⟨t, h, _⟩ := of_ending (show after (exec (.cmd0 0 0) good) ending = some (false, .protocolMismatch) by decide)
  obtain ⟨u, k, _⟩ := of_ending (show after (exec (.cmd53w 0x2000 2) good) ending = some (false, .ok) by
    decide +kernel)
  exact ⟨_, _, good, t, u, by decide, rfl, h, by decide, by decide, k, by decide⟩

theorem witness_RequestsKeepTheOtherBitsOfCtl : ∃ (i : Instr) (s t : State), exec i s = .next t := by
  obtain ⟨t, h, _⟩ := of_ending (show after (exec (.cmd0 0 0) good) ending = some (false, .protocolMismatch) by decide)
  exact ⟨_, good, t, h⟩

theorem witness_SendingRequestsReadTheBufferInOrder :
    ∃ (i : Instr) (s t : State) (buf size : Word), (i = .send buf size ∨ i = .cmd53w buf size)
      ∧ s.busy = false ∧ s.env.resets = [] ∧ exec i s = .next t ∧ t.busy = false ∧ t.block.status = .ok := by
  obtain ⟨t, h1, h2, h3⟩ := of_ending (show after (exec (.send 0x2000 5) good) ending = some (false, .ok) by decide)
  exact ⟨_, good, t, 0x2000, 5, .inl rfl, by decide, rfl, h1, h2, h3⟩

theorem witness_ReceivingRequestsWriteTheBufferInOrder :
    ∃ (s t u : State), s.busy = false ∧ s.env.resets = []
      ∧ (exec (.recv 0x3000 3) s = .next t ∧ t.busy = false ∧ t.block.status = .ok)
      ∧ exec (.rsv7 0x3000 3) s = .next u := by
  obtain ⟨t, h1, h2, h3⟩ := of_ending (show after (exec (.recv 0x3000 3) good) ending = some (false, .ok) by decide)
  obtain ⟨u, k, _⟩ := of_ending (show after (exec (.rsv7 0x3000 3) good) ending = some (false, .illegalRequest) by
    decide)
  exact ⟨good, t, u, by decide, rfl, ⟨h1, h2, h3⟩, k⟩

theorem witness_RequestsMakeTheirRegisterAccessesInOrder :
    ∃ (i j : Instr) (s t u : State), s.Ready ∧ s.periph.rx = []
      ∧ exec i s = .next t ∧ t.busy = false ∧ t.block.status = .ok
      ∧ exec j s = .next u ∧ u.busy = false ∧ u.block.status = .protocolMismatch := by
  obtain ⟨t, h1, h2, h3⟩ := of_ending (show after (exec (.send 0x2000 5) good) ending = some (false, .ok) by decide)
  obtain ⟨u, k1, k2, k3⟩ := of_ending (show after (exec (.cmd0 0 0) good) ending
    = some (false, .protocolMismatch) by decide)
  exact ⟨_, _, good, t, u, ready_good, rfl, h1, h2, h3, k1, k2, k3⟩

theorem witness_WireLengthOfEachRequest :
    ∃ (i j : Instr) (s t u : State), s.Ready
      ∧ exec i s = .next t ∧ t.busy = false ∧ t.block.status = .ok
      ∧ exec j s = .next u ∧ u.busy = false ∧ u.block.status = .illegalRequest := by
  obtain ⟨t, h1, h2, h3⟩ := of_ending (show after (exec (.send 0x2000 5) good) ending = some (false, .ok) by decide)
  obtain ⟨u, k1, k2, k3⟩ := of_ending (show after (exec (.rsv5 0 0) good) ending = some (false, .illegalRequest) by
    decide)
  exact ⟨_, _, good, t, u, ready_good, h1, h2, h3, k1, k2, k3⟩

theorem witness_RequestsDoNotReadFlagsOrCollaborators : ∃ s : State, s.env.resets = [] := ⟨good, rfl⟩

theorem witness_Cmd0IgnoresItsOperands : ∃ s : State, s.busy = false ∧ s.env.resets = [] :=
  ⟨good, by decide, rfl⟩

/-! ### Waits and the drain, at both sides of each test -/

/-- A busy block about to begin a wait or a drain, with FIFO contents. -/
def waiting (w : Wte) (tx rx : List Word) : State :=
  { busyState with
    block := { busyState.block with wte := w }
    periph := ⟨0x00000001, tx, rx, none, false⟩ }

theorem witness_WaitsPollStaUntilTheirTestHolds :
    ∀ w ∈ [Wte.b3Txe, .b5Words, .b7Rx], ∀ tx ∈ [[], List.replicate 7 1, List.replicate 8 1], ∀ rx ∈ [[], [1]],
      (waiting w tx rx).busy = true ∧ (waiting w tx rx).cfg.wf = true ∧ (waiting w tx rx).periph.frame = none
      ∧ (waiting w tx rx).env.resets = [] ∧ (waiting w tx rx).block.phase = .start
      ∧ (waiting w tx rx).block.polls = 0 ∧ (waiting w tx rx).block.wte = w
      ∧ (waiting w tx rx).cfg.pollLimit = some 8 := by decide

/-- L2.1: a wait that fails twice and then holds, with POLL_LIMIT 8. -/
theorem witness_WaitsPollStaUntilTheirTestHolds_later :
    ∃ (s : State) (fr : Frame) (more : List Nat), s.busy = true ∧ s.cfg.wf = true ∧ s.env.resets = []
      ∧ s.block.phase = .start ∧ s.block.polls = 0 ∧ s.block.wte = .b7Rx ∧ s.periph.rx = []
      ∧ s.periph.frame = some fr ∧ fr.i < fr.n ∧ s.periph.tx ≠ []
      ∧ s.env.sched.items = List.replicate 2 0 ++ min (4 - fr.i % 4) (fr.n - fr.i) :: more
      ∧ s.cfg.pollLimit = some 8 :=
  ⟨{ busyState with env := { busyState.env with sched := ⟨[0, 0, 4], some 0⟩ } }, ⟨8, 0, 0, 0⟩, [], by decide,
    by decide, rfl, rfl, rfl, rfl, rfl, rfl, by decide, by decide, rfl, rfl⟩

/-- 8 stale words are within POLL_LIMIT 8; 9 are not. -/
theorem witness_DrainDiscardsTheStaleWords :
    ∀ k ∈ [0, 8, 9],
      (waiting .b2Drain [] (List.replicate k 1)).busy = true
      ∧ (waiting .b2Drain [] (List.replicate k 1)).cfg.wf = true
      ∧ (waiting .b2Drain [] (List.replicate k 1)).periph.frame = none
      ∧ (waiting .b2Drain [] (List.replicate k 1)).env.resets = []
      ∧ (waiting .b2Drain [] (List.replicate k 1)).block.phase = .start
      ∧ (waiting .b2Drain [] (List.replicate k 1)).block.polls = 0
      ∧ (waiting .b2Drain [] (List.replicate k 1)).block.wte = .b2Drain
      ∧ (waiting .b2Drain [] (List.replicate k 1)).cfg.pollLimit = some 8
      ∧ (waiting .b2Drain [] (List.replicate k 1)).periph.rx.length = k := by decide

/-! ### The peripheral -/

theorem witness_StaTestsSayWhatTheFifosHold : ∃ c : Config, c.wf = true := ⟨Config.ex, by decide⟩

/-- Writes that start no frame: one that clears XCH, and, where XCH_MASK has two bits, one that sets part of it. -/
theorem witness_CtlWriteStartsAFrameWhenXchIsSet_none :
    ∃ s u : State, s.cfg.wf = true ∧ s.periph.frame = none
      ∧ ¬ (s.periph.ctl &&& s.cfg.xchMask = 0 ∧ (0x1 : Word) &&& s.cfg.xchMask = s.cfg.xchMask)
      ∧ u.cfg.wf = true ∧ u.periph.frame = none ∧ u.periph.ctl &&& u.cfg.xchMask = 0
      ∧ (0x401 : Word) &&& u.cfg.xchMask ≠ u.cfg.xchMask ∧ (0x401 : Word) &&& u.cfg.xchMask ≠ 0 :=
  ⟨{ good with periph := { Periph.powerUp with ctl := 0x00030401 } },
    { good with cfg := { good.cfg with xchMask := 0x0C00 } },
    by decide, rfl, by decide, by decide, rfl, by decide, by decide, by decide⟩

/-- A write that sets XCH, one that leaves it, and both leave the FIFOs. -/
theorem witness_CtlWriteStartsAFrameWhenXchIsSet :
    ∃ (s : State) (v w : Word), s.cfg.wf = true ∧ s.periph.frame = none
      ∧ s.periph.ctl &&& s.cfg.xchMask = 0 ∧ v &&& s.cfg.xchMask = s.cfg.xchMask
      ∧ w &&& s.cfg.xchMask = s.periph.ctl &&& s.cfg.xchMask
      ∧ v &&& clearMask s.cfg = 0 ∧ w &&& clearMask s.cfg = 0 :=
  ⟨good, 0x00FF0401, 0x00FF0001, by decide, rfl, by decide, by decide, by decide, by decide, by decide⟩

/-- A frame of 5 bytes in 2 words, with one more word behind them. -/
theorem witness_FrameSendsItsWordsInLaneOrder :
    ∃ (s : State) (f : Frame) (ws more : List Word), s.periph.frame = some f ∧ f.i = 0 ∧ 1 ≤ f.n
      ∧ s.periph.disturbed = false ∧ s.periph.tx = ws ++ more ∧ ws.length = (f.n + 3) / 4
      ∧ s.periph.rx.length + ws.length ≤ s.cfg.rxDepth :=
  ⟨{ good with periph := ⟨0x00040401, [0x44332211, 0x55, 0x66], [], some ⟨5, 0, 0, 0⟩, false⟩ }, ⟨5, 0, 0, 0⟩,
    [0x44332211, 0x55], [0x66], rfl, rfl, by decide, rfl, rfl, rfl, by decide⟩

/-- The last free place and the full FIFO; the last word and the empty FIFO. -/
theorem witness_FifoPortsAppendAndTakeTheHead :
    ∃ s u : State, s.periph.tx.length < s.cfg.txDepth ∧ s.periph.rx = 1 :: []
      ∧ u.cfg.txDepth ≤ u.periph.tx.length ∧ u.periph.rx = [] :=
  ⟨{ good with periph := { Periph.powerUp with tx := List.replicate 7 0, rx := [1] } },
    { good with periph := { Periph.powerUp with tx := List.replicate 8 0 } }, by decide, rfl, by decide, rfl⟩

theorem witness_HeaderCarriesTheChunkLength : (511 : Nat) ≤ 511 ∧ (0 : Nat) ≤ 511 := by decide

theorem witness_EveryOpValueSelectsOneRow :
    (Instr.rsv7 1 2).op = 0b111#3 ∧ (Instr.rsv7 1 2).buf = 1 ∧ (Instr.rsv7 1 2).size = 2 := by decide

/-- A request that moves bytes on a peripheral that is not idle, a disturbed peripheral in a tick, and an undisturbed
one with an answer waiting. -/
theorem witness_RequestsOnAnUnsettledPeripheralHaveFreeLinkBytes :
    ∃ (i : Instr) (s t u v : State), movesBytes i = true ∧ s.busy = false
      ∧ (s.periph.frame ≠ none ∨ s.periph.tx ≠ []) ∧ exec i s = .next t ∧ (u.periph.disturbed = true ∧ tick u = .next v)
      ∧ goodCmd0.periph.disturbed = false ∧ ∃ x rest, goodCmd0.env.answers.items = x :: rest := by
  obtain ⟨t, h, _⟩ := of_after (show after (exec (.cmd0 0 0)
    { s0 (some 8) [] [] 0 with periph := { Periph.powerUp with tx := [1] } }) (fun t => t.busy) = some false by decide)
  obtain ⟨v, hv, _⟩ := of_after (show after (tick { busyState with
    env := { busyState.env with sched := ⟨[], some 0⟩ }, periph := { busyState.periph with disturbed := true } })
    (fun t => t.busy) = some true by decide)
  exact ⟨.cmd0 0 0, _, t, _, v, by decide, by decide, .inr (by decide), h, ⟨rfl, hv⟩, rfl, _, _, rfl⟩

theorem witness_EachPollOfAWaitReadsStaOnce :
    ∃ s u s' u' : State, (s.busy = true ∧ s.cfg.wf = true ∧ s.env.resets = [] ∧ breathe s = .next u
        ∧ s.block.phase = .start ∧ s.block.wte = .b7Rx ∧ u.trace ≠ [])
      ∧ (s'.busy = true ∧ s'.cfg.wf = true ∧ s'.env.resets = [] ∧ breathe s' = .next u'
        ∧ s'.block.phase = .giveUp ∧ s'.block.wte = .b7Rx) := by
  obtain ⟨u, h, he⟩ := of_after (show after (breathe busyState) (fun t => decide (t.trace ≠ [])) = some true by decide)
  obtain ⟨u', h', _⟩ := of_after (show after (breathe { busyState with
    block := { busyState.block with phase := .giveUp } }) (fun t => t.busy) = some true by decide)
  exact ⟨_, u, _, u', ⟨by decide, by decide, rfl, h, rfl, rfl, of_decide_eq_true he⟩,
    ⟨by decide, by decide, rfl, h', rfl, rfl⟩⟩

/-- What the wait's condition looks at is on the one side of each test, then on the other. -/
theorem witness_EachPollOfAWaitReadsStaOnce_holds :
    ∀ p ∈ [(waiting .b3Txe [] [], waiting .b3Txe [1] []),
        (waiting .b5Words (List.replicate 7 1) [], waiting .b5Words (List.replicate 8 1) []),
        (waiting .b7Rx [] [1], waiting .b7Rx [] [])],
      breathe p.1 = .next p.1 ∧ breathe p.2 = .next p.2 ∧ waitHolds p.1 ∧ ¬ waitHolds p.2
      ∧ ∀ s ∈ [p.1, p.2], s.busy = true ∧ s.cfg.wf = true ∧ s.env.resets = [] ∧ s.block.phase = .start := by
  simp only [List.forall_mem_cons, List.not_mem_nil, false_imp_iff, implies_true, and_true]
  refine ⟨⟨rfl, rfl, ?_, ?_, ?_⟩, ⟨rfl, rfl, ?_, ?_, ?_⟩, rfl, rfl, ?_, ?_, ?_⟩ <;> simp only [waitHolds, waiting] <;> decide

/-- With POLL_LIMIT 8 the budget is not spent by the seventh poll, and is by the eighth. -/
theorem witness_EachPollOfAWaitReadsStaOnce_spent :
    (waiting .b7Rx [] []).cfg.pollLimit = some 8 ∧ ¬ 8 ≤ ((6 : Word) + 1).toNat ∧ 8 ≤ ((7 : Word) + 1).toNat := by
  decide

/-- An ill-formed request while a frame runs. -/
theorem witness_IllegalRequestsLeaveThePeripheralToItself :
    ∃ (i : Instr) (s : State), i.wellFormed = false ∧ s.busy = false ∧ s.env.resets = [] ∧ s.periph.frame ≠ none :=
  ⟨.send 0 4, { good with periph := busyState.periph }, by decide, by decide, rfl, by decide⟩

/-! ### What an interrupted receive has stored -/

/-- The state of `test_recv_stuck_at_second_burst`: healthy for one frame, stuck after it. -/
def stuckAtSecondFrame : State :=
  { s0 (some 8) [] [] 0 with
    env := { Env.powerUp with answers := ⟨[], some 0x5A⟩, rxPad := ⟨[], some 0⟩, sched := ⟨[256], some 0⟩ } }

theorem ready_stuckAtSecondFrame : stuckAtSecondFrame.Ready := ⟨rfl, rfl, by decide, rfl, rfl, rfl⟩

theorem witness_RecvHasStoredAFirstPartOfTheReceivedBytes :
    ∃ (s t : State) (buf size : Word), s.Ready ∧ s.mem.wf = true ∧ exec (.recv buf size) s = .next t
      ∧ t.busy = false ∧ t.block.status = .deviceNotResponding := by
  obtain ⟨t, h1, h2, h3⟩ := of_ending (show after (exec (.recv 0x3000 40) stuckAtSecondFrame) ending
    = some (false, .deviceNotResponding) by decide +kernel)
  exact ⟨_, t, _, _, ready_stuckAtSecondFrame, by decide, h1, h2, h3⟩

/-- The header is sent and the first payload burst gets no answer: the failing call is the payload's. -/
theorem witness_Cmd53ReadHasStoredAFirstPartOfThePayload :
    ∃ (s t : State) (buf size : Word), s.Ready ∧ s.mem.wf = true ∧ exec (.cmd53r buf size) s = .next t
      ∧ t.busy = false ∧ t.block.status = .deviceNotResponding ∧ t.block.wSrc = .buf := by
  obtain ⟨t, h, he⟩ := of_after (show after (exec (.cmd53r 0x3000 40) stuckAtSecondFrame)
    (fun t => (ending t, t.block.wSrc)) = some ((false, .deviceNotResponding), .buf) by decide +kernel)
  exact ⟨_, t, _, _, ready_stuckAtSecondFrame, by decide, h, congrArg (fun e => e.1.1) he,
    congrArg (fun e => e.1.2) he, congrArg Prod.snd he⟩

/-! ### The host's moves -/

theorem witness_HostWritesContextFlagsWhileIdle :
    ∃ s u : State, s.busy = false ∧ s.periph.frame = none ∧ s.env.inbox = .setReady true :: []
      ∧ u.busy = false ∧ u.periph.frame = none ∧ u.env.inbox = .setCsForced true :: [] :=
  ⟨s0With [.setReady true], s0With [.setCsForced true], by decide, rfl, rfl, by decide, rfl, rfl⟩

theorem witness_InterruptCollaboratorFollowsItsOps :
    ∀ m ∈ [HostMove.irq .enable, .irq .disable, .irq .acknowledge, .irq .status, .chipReady],
      (s0With [m]).busy = false ∧ (s0With [m]).periph.frame = none ∧ (s0With [m]).env.inbox = m :: [] := by decide

/-- Every op on the line it names. -/
theorem witness_GpioOpsActOnOneLine :
    ∀ op ∈ [GpioOp.disable, .enable, .high, .low], ∀ id ∈ [GpioId.resetD, .resetA, .power],
      (s0With [.gpio op id]).busy = false ∧ (s0With [.gpio op id]).periph.frame = none
      ∧ (s0With [.gpio op id]).env.inbox = .gpio op id :: []
      ∧ (s0With [.gpio op id]).gpio.resetD = ⟨false, false⟩ ∧ (s0With [.gpio op id]).gpio.resetA = ⟨false, false⟩
      ∧ (s0With [.gpio op id]).gpio.power = ⟨false, false⟩ := by decide

end Sys2Proof.Tests
end

namespace Sys2Proof.Machine

/-! ## What one tick adds to the trace -/

@[simp] theorem setResets_trace (r : List Nat) (s : State) : (setResets r s).trace = s.trace := rfl

/-- The peripheral's share of a tick comes before the block's action (R45, R69), so its link bytes stand before the
action's event. -/
theorem breathe_act_trace {s u t : State} (hb : breathe s = .next u) (ha : act u = .next t) :
    ∃ ws es : List Event, t.trace = s.trace ++ ws ++ es
      ∧ (∀ e ∈ ws, ∃ o i, e = .wire o i) ∧ ActTrace es := by
  obtain ⟨ws, hws, hwire⟩ := (breathe_periphOnly hb).trace
  obtain ⟨es, hes, hact⟩ := (act_actOnly ha).trace
  exact ⟨ws, es, by rw [hes, hws], hwire, hact⟩

/-- Settles O12: a reset that arrives in the tick adds no event, and any other tick is the peripheral's share followed
by one action of the block. -/
theorem tickMakesAtMostOneAccess : Obligations.TickMakesAtMostOneAccess := by
  intro s t h
  rcases tick_next h with ⟨later, -, rfl⟩ | ⟨r, u, -, hb, ha⟩
  · exact ⟨[], [], by simp, by simp, .inl rfl⟩
  · have hshare := breathe_act_trace hb ha
    rw [setResets_trace] at hshare
    exact hshare

end Sys2Proof.Machine

namespace Sys2Proof.Machine

/-! ## The bits of a configuration that meets R206 -/

/-- R206: what a well-formed configuration says of the FIFO depths and the poll budget. -/
theorem Config.wf_depths {c : Config} (h : c.wf = true) : 8 ≤ c.txDepth ∧ 8 ≤ c.rxDepth := by
  simp only [Config.wf, Config.wfDepths, Bool.and_eq_true, decide_eq_true_eq] at h
  exact h.1.1.1.2

/-- R206: the three STA bits stand at distinct places below 32. -/
theorem Config.wf_sta {c : Config} (h : c.wf = true) :
    (c.rxeBit < 32 ∧ c.txfBit < 32 ∧ c.txeBit < 32)
      ∧ c.rxeBit ≠ c.txfBit ∧ c.rxeBit ≠ c.txeBit ∧ c.txfBit ≠ c.txeBit := by
  simp only [Config.wf, Config.wfSta, Bool.and_eq_true, decide_eq_true_eq] at h
  obtain ⟨⟨-, ⟨⟨⟨⟨h1, h2⟩, h3⟩, h4⟩, h5⟩, h6⟩, -⟩ := h
  exact ⟨⟨h1, h2, h3⟩, h4, h5, h6⟩

/-- R206: XCH_MASK is not 0, and XCH shares no bit with the FIFO-clear fields or FL. -/
theorem Config.wf_xch {c : Config} (h : c.wf = true) :
    c.xchMask ≠ 0 ∧ c.xchMask &&& clearMask c = 0 ∧ c.xchMask &&& Config.flMask = 0 := by
  simp only [Config.wf, Config.wfCtl, Bool.and_eq_true, decide_eq_true_eq] at h
  obtain ⟨⟨⟨-, hc⟩, -⟩, -⟩ := h
  obtain ⟨⟨⟨⟨⟨⟨⟨⟨⟨⟨⟨hx, -⟩, hr⟩, ht⟩, -⟩, -⟩, -⟩, -⟩, hf⟩, -⟩, -⟩, -⟩ := hc
  refine ⟨hx, ?_, hf⟩
  rw [clearMask, BitVec.and_or_distrib_left, hr, ht]; rfl

/-! ## The tests of STA -/

/-- A single bit is set at its own place alone. -/
theorem getElem_staBit (place i : Nat) (on : Bool) (h : i < 32) :
    (staBit place on)[i] = (on && decide (i = place)) := by
  unfold staBit
  cases on with
  | false => simp
  | true =>
    simp only [if_true, BitVec.getElem_shiftLeft, Bool.true_and]
    by_cases hp : i = place
    · simp [hp]
    · simp [hp]; omega

/-- The RXE bit of a value read from STA (R41). -/
theorem staValue_rxe {c : Config} (h : c.wf = true) (p : Periph) (other : Word) :
    (staValue c p other).getLsbD c.rxeBit = rxEmpty p := by
  obtain ⟨⟨h1, h2, h3⟩, h4, h5, h6⟩ := Config.wf_sta h
  simp [staValue, staMask, getElem_staBit, h1, h4, h5]

/-- The TXF bit of a value read from STA (R41). -/
theorem staValue_txf {c : Config} (h : c.wf = true) (p : Periph) (other : Word) :
    (staValue c p other).getLsbD c.txfBit = txFull c p := by
  obtain ⟨⟨h1, h2, h3⟩, h4, h5, h6⟩ := Config.wf_sta h
  simp [staValue, staMask, getElem_staBit, h2, h4.symm, h6]

/-- The TXE bit of a value read from STA (R41). -/
theorem staValue_txe {c : Config} (h : c.wf = true) (p : Periph) (other : Word) :
    (staValue c p other).getLsbD c.txeBit = txEmpty p := by
  obtain ⟨⟨h1, h2, h3⟩, h4, h5, h6⟩ := Config.wf_sta h
  simp [staValue, staMask, getElem_staBit, h3, h5.symm, h6.symm]

/-- Settles O45: the three described bits stand at distinct places, so no other bit of the value disturbs them. -/
theorem staTestsSayWhatTheFifosHold : Obligations.StaTestsSayWhatTheFifosHold := by
  intro c p other h
  refine ⟨?_, ?_, ?_⟩
  · rw [StaTest.holds, staValue_txe h, Bool.eq_iff_iff]
    simp [txEmpty]
  · rw [StaTest.holds, staValue_txf h, txFull, ← decide_not, decide_eq_decide, not_le]
  · rw [StaTest.holds, staValue_rxe h, Bool.eq_iff_iff]
    simp [rxEmpty]

/-! ## A write of CTL -/

/-- Where a CTL write leaves the RX FIFO (R40). -/
theorem writeCtl_rx (v : Word) (s : State) :
    (writeCtl v s).periph.rx = if clears s.cfg.rfcMask v then [] else s.periph.rx := by
  unfold writeCtl writeCtlEffect
  split <;> split <;> rfl

/-- Where a CTL write leaves the TX FIFO (R40). -/
theorem writeCtl_tx (v : Word) (s : State) :
    (writeCtl v s).periph.tx = if clears s.cfg.tfcMask v then [] else s.periph.tx := by
  unfold writeCtl writeCtlEffect
  split <;> split <;> rfl

/-- A field none of whose bits are written does not act. -/
theorem clears_of_and_eq_zero {m v : Word} (h : v &&& m = 0) : clears m v = false := by
  unfold clears
  rw [h, Bool.and_eq_false_iff, decide_eq_false_iff_not, decide_eq_false_iff_not, not_not]
  exact (em (m = 0)).imp_right Ne.symm

/-- A write that sets no FIFO-clear bit leaves both FIFOs. -/
theorem writeCtl_fifos {v : Word} {s : State} (h : v &&& clearMask s.cfg = 0) :
    (writeCtl v s).periph.tx = s.periph.tx ∧ (writeCtl v s).periph.rx = s.periph.rx := by
  rw [clearMask, BitVec.and_or_distrib_left] at h
  replace h := BitVec.or_eq_zero_iff.mp h
  rw [writeCtl_tx, writeCtl_rx, clears_of_and_eq_zero h.1, clears_of_and_eq_zero h.2]
  exact ⟨rfl, rfl⟩

/-- The FIFO-clear bits of a value already without them stay out. -/
theorem and_not_and_not (x m : Word) : x &&& ~~~m &&& ~~~m = x &&& ~~~m := by
  rw [BitVec.and_assoc, BitVec.and_self]

/-- CTL reads back as written but for its FIFO-clear bits (R40). -/
theorem ctlValue_writeCtl (v : Word) (s : State) :
    ctlValue s.cfg (writeCtl v s).periph = v &&& ~~~clearMask s.cfg := by
  rw [ctlValue, writeCtl_ctl, and_not_and_not]

/-- With no frame running, a write that takes XCH from 0 to XCH_MASK starts the frame of the FL it writes (R45). -/
theorem writeCtl_frame_started {v : Word} {s : State} (hx : s.cfg.xchMask ≠ 0)
    (h0 : s.periph.ctl &&& s.cfg.xchMask = 0) (h1 : v &&& s.cfg.xchMask = s.cfg.xchMask) :
    (writeCtl v s).periph.frame = some (newFrame v) := by
  unfold writeCtl writeCtlEffect
  rw [if_neg (by rw [h1]; exact hx), if_pos ⟨h0, h1⟩]
  rfl

/-- With no frame running, any other write starts none (R45). -/
theorem writeCtl_frame_none {v : Word} {s : State} (hf : s.periph.frame = none)
    (h : ¬ (s.periph.ctl &&& s.cfg.xchMask = 0 ∧ v &&& s.cfg.xchMask = s.cfg.xchMask)) :
    (writeCtl v s).periph.frame = none := by
  unfold writeCtl writeCtlEffect
  rw [hf, if_neg h]
  split <;> exact hf

/-- The frame length field, as a number (R40). -/
theorem toNat_ctlFl (v : Word) : (ctlFl v).toNat = (v >>> 16).toNat % 256 := by
  simp [ctlFl]

/-- Settles O46: the frame is the one of `writeCtl_frame_started` or, by `writeCtl_frame_none`, there is none. -/
theorem ctlWriteStartsAFrameWhenXchIsSet : Obligations.CtlWriteStartsAFrameWhenXchIsSet := by
  intro s v hc hf
  refine ⟨ctlValue_writeCtl v s, fun h0 h1 => ?_, writeCtl_frame_none hf, writeCtl_fifos⟩
  refine ⟨_, writeCtl_frame_started (Config.wf_xch hc).1 h0 h1, ?_, rfl⟩
  rw [← toNat_ctlFl]; rfl

/-- Settles O57: each FIFO is cleared by its own field alone, and CTL keeps no FIFO-clear bit. -/
theorem ctlWriteEmptiesTheFifoItClears : Obligations.CtlWriteEmptiesTheFifoItClears := by
  intro s v
  refine ⟨?_, ?_, ?_⟩
  · simp [writeCtl_rx, clears]
  · simp [writeCtl_tx, clears]
  · rw [ctlValue_writeCtl, BitVec.and_assoc, BitVec.and_comm (~~~clearMask s.cfg), BitVec.and_not_self]
    exact BitVec.and_zero

/-! ## The FIFO ports -/

theorem writeTxd_of_room (v : Word) {s : State} (h : s.periph.tx.length < s.cfg.txDepth) :
    writeTxd v s = .next ((s.withPeriph { s.periph with tx := s.periph.tx ++ [v] }).log (.mmioWrite .txd v)) := by
  simp [writeTxd, txFull, h]

theorem readRxd_of_cons {w : Word} {rest : List Word} {s : State} (h : s.periph.rx = w :: rest) :
    readRxd s = .next (w, (s.withPeriph { s.periph with rx := rest }).log (.mmioRead .rxd w)) := by
  simp [readRxd, h]

/-- Settles O48: the two ports inside their bounds, and the model's fault at each end. -/
theorem fifoPortsAppendAndTakeTheHead : Obligations.FifoPortsAppendAndTakeTheHead := by
  intro s v
  refine ⟨fun h => ⟨_, writeTxd_of_room v h, rfl, rfl, rfl, rfl⟩, fun h => ?_,
    fun w rest h => ⟨_, readRxd_of_cons h, rfl, rfl, rfl, rfl⟩, fun h => ?_⟩
  · simp [writeTxd, txFull, h]
  · simp [readRxd, h]

end Sys2Proof.Machine

namespace Sys2Proof.Machine

/-! ## Runs from an idle block -/

/-- A request whose first tick ends it is that tick alone. -/
theorem resume_of_first_tick {s : State} {o : Res State} (hs : s.busy = true) (h : tick s = o)
    (ho : ∀ t, o = .next t → t.busy = false) : resume s = o := by
  have hfuel : tickFuel = (2 ^ 128 - 1) + 1 := by decide
  rw [resume, hfuel, runTicks_busy _ hs, h]
  cases o with
  | next t => exact runTicks_idle _ (ho t rfl)
  | fault r => rfl
  | refused r => rfl

/-- An idle block's request is accepted and run (R50). -/
theorem exec_of_idle (i : Instr) {s : State} (h : s.busy = false) :
    exec i s = resume (accept i.op i.buf i.size s) := by
  rw [exec_eq_runRequest, runRequest, h]; rfl

/-- A strobe while busy leaves the machine as it is (R217). -/
theorem exec_of_busy (i : Instr) {s : State} (h : s.busy = true) : exec i s = .next s := by
  rw [exec_eq_runRequest, runRequest_of_busy _ _ _ h]

@[simp] theorem decodeReq_fields (i : Instr) : decodeReq i.op i.buf i.size = i := by cases i <;> rfl

/-- A tick with no reset on its way is the peripheral's share and one action. -/
theorem tick_next_of_no_reset {s t : State} (hr : s.env.resets = []) (h : tick s = .next t) :
    ∃ u, PeriphOnly s u ∧ breathe s = .next u ∧ act u = .next t := by
  rw [tick_of_no_reset hr] at h
  obtain ⟨u, hu, ht⟩ := andThen_eq_next.mp h
  exact ⟨u, breathe_periphOnly hu, hu, ht⟩

/-- What the peripheral's steps and every action of a busy block keep, a request keeps from its acceptance on. -/
theorem exec_keeps (P : State → Prop) {i : Instr} {s t : State} (hb : s.busy = false) (hr : s.env.resets = [])
    (h : exec i s = .next t) (h0 : P (accept i.op i.buf i.size s))
    (hp : ∀ u v, P u → PeriphOnly u v → P v)
    (ha : ∀ u v, P u → u.busy = true → act u = .next v → P v) : P t := by
  rw [exec_of_idle i hb] at h
  refine (runTicks_keeps (fun u => u.env.resets = [] ∧ P u) ?_ _ _ t ⟨by simpa using hr, h0⟩ h).2
  rintro u w ⟨hru, hu⟩ hbu ht
  obtain ⟨v, hv, -, hw⟩ := tick_next_of_no_reset hru ht
  refine ⟨?_, ha v w (hp u v hu hv) ?_ hw⟩
  · rw [(act_actOnly hw).resets, hv.resets, hru]
  · rw [State.busy, hv.block]; exact hbu

/-- Settles O32: neither the peripheral nor an action of the block touches any of the six. -/
theorem requestsKeepFlagsAndCollaborators : Obligations.RequestsKeepFlagsAndCollaborators := by
  intro i s t hr h
  cases hb : s.busy with
  | true =>
    rw [exec_of_busy i hb] at h
    cases h
    exact ⟨rfl, rfl, rfl, rfl, rfl, rfl⟩
  | false =>
    refine exec_keeps (fun u => u.ctx = s.ctx ∧ u.irq = s.irq ∧ u.gpio = s.gpio ∧ u.cfg = s.cfg
      ∧ u.env.inbox = s.env.inbox ∧ u.env.race = s.env.race) hb hr h (by simp) ?_ ?_
    · rintro u v ⟨h1, h2, h3, h4, h5, h6⟩ k
      exact ⟨k.ctx.trans h1, k.irq.trans h2, k.gpio.trans h3, k.cfg.trans h4, k.inbox.trans h5, k.race.trans h6⟩
    · rintro u v ⟨h1, h2, h3, h4, h5, h6⟩ - hv
      have k := act_actOnly hv
      exact ⟨k.ctx.trans h1, k.irq.trans h2, k.gpio.trans h3, k.cfg.trans h4, k.inbox.trans h5, k.race.trans h6⟩

/-! ## Requests that are refused at CHECK -/

/-- R173: a request that uses its buffer is ill-formed exactly when CHECK finds its buffer bad. -/
theorem badBuffer_eq {i : Instr} (h : i.usesBuffer = true) : badBuffer i.buf i.size = !i.wellFormed := by
  have hop : i.opDefined = true := by cases i <;> simp_all [Instr.usesBuffer, Instr.opDefined]
  rw [Bool.eq_iff_iff]
  simp [badBuffer, Instr.wellFormed, Instr.bufferNotNull, Instr.bufferInSpace, h, hop, and_or_left]

/-- CHECK refuses a request that is not one the block runs (R84, R173). -/
theorem checkRequest_of_illegal {i : Instr} {s : State} (h : i.wellFormed = false)
    (hop : s.block.op = i.op) (hbuf : s.block.buf = i.buf) (hsize : s.block.size = i.size) :
    checkRequest s = endRequest .illegalRequest s := by
  have hbad : i.usesBuffer = true → badBuffer s.block.buf s.block.size = true := by
    intro hu; rw [hbuf, hsize, badBuffer_eq hu, h]; rfl
  unfold checkRequest
  rw [hop, hbuf, hsize, decodeReq_fields]
  cases i with
  | send b n => exact if_pos (hbad rfl)
  | recv b n => exact if_pos (hbad rfl)
  | cmd0 b n => cases h
  | cmd53r b n => exact if_pos (hbad rfl)
  | cmd53w b n => exact if_pos (hbad rfl)
  | rsv5 b n => rfl
  | rsv6 b n => rfl
  | rsv7 b n => rfl

/-- Settles O60: such a request is accepted without touching the peripheral, and its one tick is the peripheral's share
and the refusal of CHECK. -/
theorem illegalRequestsLeaveThePeripheralToItself : Obligations.IllegalRequestsLeaveThePeripheralToItself := by
  intro i s hi hb hr
  have hmoves : movesBytes (decodeReq i.op i.buf i.size) = false := by simp [movesBytes, hi]
  rw [exec_of_idle i hb, accept_of_no_bytes hmoves]
  refine resume_of_first_tick rfl ?_ ?_
  · rw [tick_of_no_reset (by exact hr)]
    cases hu : breathe _ with
    | fault r => rfl
    | refused r => rfl
    | next u =>
      have hblock := (breathe_periphOnly hu).block
      rw [andThen_next, andThen_next, act_eq_cflAct (by rw [hblock]; rfl), cflAct,
        show u.block.cfl = .check by rw [hblock]; rfl]
      exact congrArg _ (checkRequest_of_illegal hi (by rw [hblock]; rfl) (by rw [hblock]; rfl) (by rw [hblock]; rfl))
  · intro t ht
    obtain ⟨u, -, hu⟩ := andThen_eq_next.mp ht
    cases hu
    rfl

/-! ## Reset, and the steps of an idle block -/

/-- Settles O1: the values of `State.reset`, read off one by one. -/
theorem resetLeavesBlockIdleAndCleared : Obligations.ResetLeavesBlockIdleAndCleared := by
  simp [Obligations.ResetLeavesBlockIdleAndCleared, State.reset, State.busy, Block.reset, Ctx.reset, Irq.powerUp]

/-- An idle block whose inbox begins with a request runs it, after the peripheral's share. -/
theorem step_of_request {s : State} {w : ReqWord} {rest : List HostMove} (hb : s.busy = false)
    (h : s.env.inbox = .request w :: rest) :
    step s = andThen (breathe (s.withEnv { s.env with inbox := rest })) (exec (decode w)) := by
  have hdrop : dropMove s = s.withEnv { s.env with inbox := rest } := by rw [dropMove, h]; rfl
  rw [step, hb, nextRequest, h, ← hdrop]
  rfl

/-- Settles O9: with no frame running the peripheral's share is nothing. -/
theorem stepRunsTheDecodedRequest : Obligations.StepRunsTheDecodedRequest := by
  intro s w rest hb h
  refine ⟨step_of_request hb h, fun hf => ?_⟩
  rw [step_of_request hb h, breathe_of_no_frame (by exact hf), andThen_next]

/-- A word that the table decodes to a request is the 67-bit word that is placed. -/
theorem decode_of_decodeTableWord {nbits w : Nat} {i : Instr} (h : decodeTableWord nbits w = some i) :
    decode (BitVec.ofNat 67 (w % 2 ^ nbits)) = i := by
  unfold decodeTableWord decodeBits at h
  by_cases hlt : w % 2 ^ nbits < 2 ^ 67
  · rw [if_pos hlt] at h; exact Option.some.inj h
  · rw [if_neg hlt] at h; cases h

/-- Settles O10: the placed request stands at the head of the inbox of an idle block. -/
theorem placedRequestRunsNext : Obligations.PlacedRequestRunsNext := by
  intro s nbits w i h
  have hstep : step (s.withFetchWord nbits w)
      = andThen (breathe (s.withBlock { s.block with cfl := .idle, wte := .none })) (exec i) := by
    rw [← decode_of_decodeTableWord h]
    exact step_of_request rfl rfl
  refine ⟨hstep, fun hf => ?_⟩
  rw [hstep, breathe_of_no_frame (by exact hf), andThen_next]

/-- An idle block with no frame running makes the host's next move, when that is no request. -/
theorem step_of_hostMove {s : State} {m : HostMove} {rest : List HostMove} (hb : s.busy = false)
    (hf : s.periph.frame = none) (h : s.env.inbox = m :: rest) (hm : ∀ w, m ≠ .request w) :
    step s = hostMove m (s.withEnv { s.env with inbox := rest }) := by
  have hdrop : dropMove s = s.withEnv { s.env with inbox := rest } := by rw [dropMove, h]; rfl
  have hnone : nextRequest s = none := by
    unfold nextRequest
    split
    · rename_i hw
      rw [h] at hw
      exact absurd (List.cons.inj hw).1 (hm _)
    · rfl
  rw [step, hb, hnone, ← hdrop]
  simp only [idleStep, h, Bool.false_eq_true, if_false]
  rw [breathe_of_no_frame (by exact hf), andThen_next]

/-- Settles O52: both writes are moves of the host on an idle block. -/
theorem hostWritesContextFlagsWhileIdle : Obligations.HostWritesContextFlagsWhileIdle := by
  intro s v rest hb hf
  exact ⟨fun h => step_of_hostMove hb hf h (by simp), fun h => ⟨_, step_of_hostMove hb hf h (by simp), rfl, rfl⟩⟩

end Sys2Proof.Machine

namespace Sys2Proof.Machine

/-! ## What one action of the block does

An action is seen as a move of the block's registers that is labelled with the events it logs. Peripheral and buffer
memory change only by an access, and the access is among those events. -/

/-- How an action leaves the peripheral and buffer memory, beside the events it logs. -/
inductive Access (s t : State) : List Event → Prop
  /-- Reads of CTL, STA and buffer memory, and the completion strobe, leave both (R70). -/
  | quiet {es : List Event} (hp : t.periph = s.periph) (hm : t.mem = s.mem) : Access s t es
  | ctlWritten (v : Word) (hp : t.periph = (writeCtl v s).periph) (hm : t.mem = s.mem) :
      Access s t [.mmioWrite .ctl v]
  | txdWritten (v : Word) (hroom : s.periph.tx.length < s.cfg.txDepth)
      (hp : t.periph = { s.periph with tx := s.periph.tx ++ [v] }) (hm : t.mem = s.mem) :
      Access s t [.mmioWrite .txd v]
  | rxdRead (w : Word) (rest : List Word) (hrx : s.periph.rx = w :: rest)
      (hp : t.periph = { s.periph with rx := rest }) (hm : t.mem = s.mem) : Access s t [.mmioRead .rxd w]
  | stored (a : Nat) (v : Byte) (ha : a < 2 ^ 32) (hp : t.periph = s.periph) (hm : t.mem = s.mem.write a v) :
      Access s t [.memWrite a v]

/-- Where byte k of a TX word comes from (R24, R117), and the events of fetching it. -/
inductive PackedByte (b : Block) (k : Fin 4) : List Event → Byte → Prop
  | ofBuffer (v : Byte) (hx : burstPos b k < b.blen.toNat) (hs : b.wSrc = .buf) :
      PackedByte b k [.memRead (b.wBase.toNat + (b.wOff.toNat + burstPos b k)) v] v
  | ofStore (v : Byte) (hx : burstPos b k < b.blen.toNat)
      (hs : (b.wSrc = .hdr ∧ b.hdr.toList[b.wOff.toNat + burstPos b k]? = some v)
        ∨ (b.wSrc = .trl ∧ (trailer (isRead b))[b.wOff.toNat + burstPos b k]? = some v)
        ∨ (b.wSrc = .cmd0f ∧ cmd0Frame[b.wOff.toNat + burstPos b k]? = some v)) : PackedByte b k [] v
  | pastBurst (hx : ¬ burstPos b k < b.blen.toNat) : PackedByte b k [] 0

/-- Where byte k of an RX word goes (R24, R119): the events of storing it, and `resp` afterwards. -/
inductive StoredByte (b : Block) (k : Fin 4) : List Event → Byte → Prop
  | toBuffer (hx : burstPos b k < b.blen.toNat) (hs : b.wSrc = .buf) :
      StoredByte b k [.memWrite (b.wBase.toNat + (b.wOff.toNat + burstPos b k)) (byteOf b.latch k)] b.resp
  | toResp (hx : burstPos b k < b.blen.toNat) (hs : b.wSrc = .resp) (h0 : b.wOff.toNat + burstPos b k = 0) :
      StoredByte b k [] (byteOf b.latch k)
  | pastBurst (hx : ¬ burstPos b k < b.blen.toNat) : StoredByte b k [] b.resp

/-- The registers after a word of B5 or B7: the next word of the burst, or the state that follows (R117, R119). -/
def wordDone (after : Wte) (b : Block) : Block :=
  if (b.wj + 1).toNat < burstWords b then { b with wj := b.wj + 1, phase := .start, polls := 0 }
  else { b with wj := b.wj + 1, wte := after, phase := .start }

/-- The registers after byte k of a word: the next byte, or `fin` after the fourth. -/
def byteDone (k : Fin 4) (fin b : Block) : Block :=
  if h : k.val + 1 < 4 then { b with phase := .byte ⟨k.val + 1, h⟩ } else fin

/-- Every move of the block's registers that an action of the WTE can make, with the events it logs (R111 to R119). -/
inductive WteMove (b : Block) : List Event → Block → Prop
  | callReturns (hw : b.wte = .top) (h : b.wOff = b.wSize) :
      WteMove b [] { b with wte := .none, cfl := afterCall b.cfl }
  | burstBegins (hw : b.wte = .top) (h : b.wOff ≠ b.wSize) :
      WteMove b [] { b with blen := burstLen b, wte := .b1TrigOff, phase := .start }
  | ctlRead (v : Word) (hw : b.wte = .b1TrigOff ∨ b.wte = .b4Fl ∨ b.wte = .b6TrigOn) :
      WteMove b [.mmioRead .ctl v] { b with latch := v, phase := .last }
  | trigOff (v : Word) (hw : b.wte = .b1TrigOff) :
      WteMove b [.mmioWrite .ctl v] { b with wte := .b2Drain, phase := .start, polls := 0 }
  | drainGoesOn (v : Word) (p : Phase) (hw : b.wte = .b2Drain) (hp : p = .last ∨ p = .giveUp) :
      WteMove b [.mmioRead .sta v] { b with phase := p }
  | drainTakes (w : Word) (hw : b.wte = .b2Drain) :
      WteMove b [.mmioRead .rxd w] { b with polls := b.polls + 1, phase := .start }
  | drainEnds (v : Word) (hw : b.wte = .b2Drain) :
      WteMove b [.mmioRead .sta v] { b with wte := .b3Txe, phase := .start, polls := 0 }
  | waitGoesOn (v : Word) (p : Phase)
      (hw : b.wte = .b3Txe ∨ (b.wte = .b5Words ∨ b.wte = .b7Rx) ∧ b.phase = .start ∧ (p = .start ∨ p = .giveUp)) :
      WteMove b [.mmioRead .sta v] { b with polls := b.polls + 1, phase := p }
  | txeHolds (v : Word) (hw : b.wte = .b3Txe) :
      WteMove b [.mmioRead .sta v] { b with wte := .b4Fl, phase := .start }
  | flSet (v : Word) (hw : b.wte = .b4Fl) :
      WteMove b [.mmioWrite .ctl v] { b with wte := .b5Words, phase := .start, polls := 0, wj := 0 }
  | dummyWordBegins (v : Word) (hw : b.wte = .b5Words) (hp : b.phase = .start) (hd : b.wDir = .receive) :
      WteMove b [.mmioRead .sta v] { b with latch := dummyWord, phase := .last }
  | sendWordBegins (v : Word) (hw : b.wte = .b5Words) (hp : b.phase = .start) (hd : b.wDir = .send) :
      WteMove b [.mmioRead .sta v] { b with latch := 0, phase := .byte 0 }
  | packs (k : Fin 4) (es : List Event) (v : Byte) (hw : b.wte = .b5Words) (hp : b.phase = .byte k)
      (hv : PackedByte b k es v) :
      WteMove b es (byteDone k { b with latch := setByte b.latch k v, phase := .last }
        { b with latch := setByte b.latch k v })
  | txdWritten (hw : b.wte = .b5Words) (hp : b.phase = .last) :
      WteMove b [.mmioWrite .txd b.latch] (wordDone .b6TrigOn b)
  | trigOn (v : Word) (hw : b.wte = .b6TrigOn) :
      WteMove b [.mmioWrite .ctl v] { b with wte := .b7Rx, phase := .start, polls := 0, wj := 0 }
  | rxeHolds (v : Word) (hw : b.wte = .b7Rx) (hp : b.phase = .start) :
      WteMove b [.mmioRead .sta v] { b with phase := .last }
  | rxdDiscarded (w : Word) (hw : b.wte = .b7Rx) (hp : b.phase = .last) (hd : b.wDir = .send) :
      WteMove b [.mmioRead .rxd w] (wordDone .next b)
  | rxdTaken (w : Word) (hw : b.wte = .b7Rx) (hp : b.phase = .last) (hd : b.wDir = .receive) :
      WteMove b [.mmioRead .rxd w] { b with latch := w, phase := .byte 0 }
  | stores (k : Fin 4) (es : List Event) (r : Byte) (hw : b.wte = .b7Rx) (hp : b.phase = .byte k)
      (hr : StoredByte b k es r) :
      WteMove b es (byteDone k (wordDone .next { b with resp := r }) { b with resp := r })
  | burstEnds (hw : b.wte = .next) :
      WteMove b [] { b with wOff := b.wOff + b.blen.setWidth 32, wte := .top, phase := .start }
  | givesUp (hp : b.phase = .giveUp) (hw : b.wte = .b2Drain ∨ b.wte = .b3Txe ∨ b.wte = .b5Words ∨ b.wte = .b7Rx) :
      WteMove b [.complete .deviceNotResponding]
        { b with status := .deviceNotResponding, cfl := .idle, wte := .none }

/-- Every move of the block's registers that an action of a `cfl` state can make while no call runs, with the events it
logs (R141 to R151, R173). -/
inductive CflMove (b : Block) : List Event → Block → Prop
  | ends (st : Status)
      (h : (b.cfl = .check ∧ st = .illegalRequest)
        ∨ (b.cfl = .c0Eval ∧ st = if b.resp = 0x01#8 then .ok else .protocolMismatch)
        ∨ (b.cfl = .finish ∧ st = .ok)) :
      CflMove b [.complete st] { b with status := st, cfl := .idle, wte := .none }
  | bufferChecked (c : Cfl) (hc : b.cfl = .check) (hb : badBuffer b.buf b.size = false)
      (h : (b.op = 0b000#3 ∧ c = .sendTop) ∨ (b.op = 0b001#3 ∧ c = .recvTop)) : CflMove b [] { b with cfl := c }
  | cmd0Checked (hc : b.cfl = .check) (hop : b.op = 0b010#3) : CflMove b [] { b with cfl := .c0Send }
  | cmd53Checked (hc : b.cfl = .check) (hb : badBuffer b.buf b.size = false) (hop : b.op = 0b011#3 ∨ b.op = 0b100#3) :
      CflMove b [] { b with cur := 0, rem := b.size, cfl := .c53Top }
  | calls (d : Dir) (w : WSrc) (base n : Word)
      (h : callOk { b with wDir := d, wSrc := w, wBase := base, wSize := n, wOff := 0, wte := .top, phase := .start }) :
      CflMove b [] { b with wDir := d, wSrc := w, wBase := base, wSize := n, wOff := 0, wte := .top, phase := .start }
  | chunkBegins (hc : b.cfl = .c53Top) (h : b.rem ≠ 0) :
      CflMove b [] { b with chunk := chunkLen b, hdr := header (isRead b) (chunkLen b), cfl := .c53Hdr }
  | noChunkLeft (hc : b.cfl = .c53Top) (h : b.rem = 0) : CflMove b [] { b with cfl := .finish }
  | chunkEnds (hc : b.cfl = .c53Next) :
      CflMove b [] { b with
        cur := b.cur + b.chunk.setWidth 32, rem := b.rem - b.chunk.setWidth 32, cfl := .c53Top }

/-- A move of the block's registers: of the `cfl` state while no call runs, of the call while one does (R21). -/
def BlockMove (b : Block) (es : List Event) (b' : Block) : Prop :=
  (b.wte = .none ∧ CflMove b es b') ∨ (b.wte ≠ .none ∧ WteMove b es b')

/-- The action from s to t logs `es`, makes the access they name, and leaves the registers at b. -/
structure ActsAs (s t : State) (es : List Event) (b : Block) : Prop where
  trace : t.trace = s.trace ++ es
  access : Access s t es
  block : t.block = b

theorem ActsAs.mk_quiet {s t : State} {es : List Event} {b : Block} (ht : t.trace = s.trace ++ es)
    (hp : t.periph = s.periph) (hm : t.mem = s.mem) (hb : t.block = b) : ActsAs s t es b :=
  ⟨ht, .quiet hp hm, hb⟩

/-- Registers set without an access. -/
theorem actsAs_withBlock (s : State) (b : Block) : ActsAs s (s.withBlock b) [] b :=
  .mk_quiet (by simp) rfl rfl rfl

theorem actsAs_endRequest (st : Status) (s : State) :
    ActsAs s (endRequest st s) [.complete st] { s.block with status := st, cfl := .idle, wte := .none } :=
  .mk_quiet rfl rfl rfl rfl

/-- Registers set after a read of STA. -/
theorem actsAs_readSta (s : State) (b : Block) :
    ActsAs s ((readSta s).2.withBlock b) [.mmioRead .sta (readSta s).1] b :=
  .mk_quiet rfl rfl rfl rfl

theorem actsAs_ctlRead (s : State) :
    ActsAs s (ctlRead s) [.mmioRead .ctl (readCtl s).1] { s.block with latch := (readCtl s).1, phase := .last } :=
  .mk_quiet rfl rfl rfl rfl

theorem writeCtl_trace (v : Word) (s : State) : (writeCtl v s).trace = s.trace ++ [.mmioWrite .ctl v] := by
  obtain ⟨u, hu, p, hp⟩ := writeCtlEffect_same v s
  rw [writeCtl, hp, State.log_trace, State.withPeriph_trace, hu.trace]

/-- Registers set after a write of CTL. -/
theorem actsAs_writeCtl (v : Word) (s : State) (b : Block) :
    ActsAs s ((writeCtl v s).withBlock b) [.mmioWrite .ctl v] b :=
  ⟨writeCtl_trace v s, .ctlWritten v rfl (writeCtl_mem v s), rfl⟩

/-- Registers set after a read of RXD. -/
theorem actsAs_readRxd {s u : State} {w : Word} (h : readRxd s = .next (w, u)) (b : Block) :
    ActsAs s (u.withBlock b) [.mmioRead .rxd w] b := by
  obtain ⟨rest, hr, rfl⟩ := readRxd_next h
  exact ⟨rfl, .rxdRead w rest hr rfl rfl, rfl⟩

theorem readRxd_block {s u : State} {w : Word} (h : readRxd s = .next (w, u)) : u.block = s.block := by
  obtain ⟨rest, -, rfl⟩ := readRxd_next h
  rfl

/-- What `nextWord` makes of the registers is `wordDone`. -/
theorem nextWord_goWte (w : Wte) (s : State) : nextWord (goWte w) s = s.withBlock (wordDone w s.block) := by
  unfold nextWord wordDone
  by_cases h : (s.block.wj + 1).toNat < burstWords s.block
  · rw [if_pos h]; exact if_pos h
  · rw [if_neg h]; exact if_neg h

/-- What `nextByte` makes of the registers is `byteDone`. -/
theorem nextByte_eq (k : Fin 4) {fin : State → State} {s : State} {b : Block} (h : fin s = s.withBlock b) :
    nextByte k fin s = s.withBlock (byteDone k b s.block) := by
  unfold nextByte byteDone
  split
  · rfl
  · exact h

/-- Everything one action of the WTE does. -/
def WteActs (s t : State) : Prop := ∃ es b, WteMove s.block es b ∧ ActsAs s t es b

theorem wTop_acts {s : State} (hw : s.block.wte = .top) : WteActs s (wTop s) := by
  unfold wTop
  split
  · rename_i h; exact ⟨_, _, .callReturns hw h, actsAs_withBlock s _⟩
  · rename_i h; exact ⟨_, _, .burstBegins hw h, actsAs_withBlock s _⟩

theorem ctlRead_acts {s : State} (hw : s.block.wte = .b1TrigOff ∨ s.block.wte = .b4Fl ∨ s.block.wte = .b6TrigOn) :
    WteActs s (ctlRead s) :=
  ⟨_, _, .ctlRead _ hw, actsAs_ctlRead s⟩

theorem trigOff_acts {s : State} (hw : s.block.wte = .b1TrigOff) : WteActs s (trigOff s) := by
  unfold trigOff
  split
  · rw [goPoll, writeCtl_block]
    exact ⟨_, _, .trigOff _ hw, actsAs_writeCtl _ s _⟩
  all_goals exact ctlRead_acts (.inl hw)

theorem setFl_acts {s : State} (hw : s.block.wte = .b4Fl) : WteActs s (setFl s) := by
  unfold setFl
  split
  · rw [goWords, writeCtl_block]
    exact ⟨_, _, .flSet _ hw, actsAs_writeCtl _ s _⟩
  all_goals exact ctlRead_acts (.inr (.inl hw))

theorem trigOn_acts {s : State} (hw : s.block.wte = .b6TrigOn) : WteActs s (trigOn s) := by
  unfold trigOn
  split
  · rw [goWords, writeCtl_block]
    exact ⟨_, _, .trigOn _ hw, actsAs_writeCtl _ s _⟩
  all_goals exact ctlRead_acts (.inr (.inr hw))

theorem givesUp_acts {s : State} (hp : s.block.phase = .giveUp)
    (hw : s.block.wte = .b2Drain ∨ s.block.wte = .b3Txe ∨ s.block.wte = .b5Words ∨ s.block.wte = .b7Rx) :
    WteActs s (raiseNotResponding s) :=
  ⟨_, _, .givesUp hp hw, actsAs_endRequest _ s⟩

theorem drainPoll_acts {s : State} (hw : s.block.wte = .b2Drain) : WteActs s (drainPoll s) := by
  unfold drainPoll
  dsimp only
  split
  · exact ⟨_, _, .drainEnds _ hw, actsAs_readSta s _⟩
  · split
    · exact ⟨_, _, .drainGoesOn _ _ hw (.inr rfl), actsAs_readSta s _⟩
    · exact ⟨_, _, .drainGoesOn _ _ hw (.inl rfl), actsAs_readSta s _⟩

theorem drain_acts {s t : State} (hw : s.block.wte = .b2Drain) (h : drain s = .next t) : WteActs s t := by
  unfold drain at h
  split at h
  · obtain ⟨⟨w, u⟩, hu, hn⟩ := andThen_eq_next.mp h
    cases hn
    refine ⟨_, _, .drainTakes w hw, ?_⟩
    rw [← readRxd_block hu]
    exact actsAs_readRxd hu _
  · cases h; exact drainPoll_acts hw
  · cases h; exact drainPoll_acts hw
  · rename_i hp; cases h; exact givesUp_acts hp (.inl hw)

/-- One poll of a wait: it holds, or it goes on from the same action. -/
theorem waitPoll_acts {tst : StaTest} {onHold : State → State} {s t : State} {held : Block}
    (hhold : onHold (readSta s).2 = (readSta s).2.withBlock held)
    (hm : WteMove s.block [.mmioRead .sta (readSta s).1] held)
    (hgo : ∀ p, p = s.block.phase ∨ p = .giveUp →
      WteMove s.block [.mmioRead .sta (readSta s).1] { s.block with polls := s.block.polls + 1, phase := p })
    (h : waitPoll tst onHold s = .next t) : WteActs s t := by
  rcases waitPoll_next h with ⟨-, rfl⟩ | ⟨-, -, rfl⟩ | ⟨-, -, rfl⟩
  · rw [hhold]; exact ⟨_, _, hm, actsAs_readSta s _⟩
  · exact ⟨_, _, hgo _ (.inl rfl), actsAs_readSta s _⟩
  · exact ⟨_, _, hgo _ (.inr rfl), actsAs_readSta s _⟩

theorem waitTxe_acts {s t : State} (hw : s.block.wte = .b3Txe) (h : waitTxe s = .next t) : WteActs s t := by
  have hpoll : waitPoll .txe (goWte .b4Fl) s = .next t → WteActs s t :=
    waitPoll_acts rfl (.txeHolds _ hw) fun p _ => .waitGoesOn _ p (.inl hw)
  unfold waitTxe at h
  split at h
  · rename_i hp; cases h; exact givesUp_acts hp (.inr (.inl hw))
  all_goals exact hpoll h

theorem packByte_acts {k : Fin 4} {s t : State} (hw : s.block.wte = .b5Words) (hp : s.block.phase = .byte k)
    (h : packByte k s = .next t) : WteActs s t := by
  simp only [packByte] at h
  split at h
  · rename_i hx
    obtain ⟨⟨v, u⟩, hu, hn⟩ := andThen_eq_next.mp h
    cases hn
    rw [srcByte_block hu, nextByte_eq k rfl]
    rcases srcByte_next hu with ⟨hs, hm⟩ | ⟨rfl, hs⟩
    · obtain ⟨-, -, u, hd, rfl⟩ := memRead_next hm
      exact ⟨_, _, .packs k _ v hw hp (.ofBuffer v hx hs), .mk_quiet (by simp [hd.trace]) hd.periph hd.mem rfl⟩
    · exact ⟨_, _, .packs k _ v hw hp (.ofStore v hx hs), actsAs_withBlock u _⟩
  · rename_i hx
    cases h
    rw [nextByte_eq k rfl]
    exact ⟨_, _, .packs k _ 0 hw hp (.pastBurst hx), actsAs_withBlock s _⟩

theorem txWords_acts {s t : State} (hw : s.block.wte = .b5Words) (h : txWords s = .next t) : WteActs s t := by
  unfold txWords at h
  split at h
  · rename_i hp
    have hgo : ∀ p, p = s.block.phase ∨ p = .giveUp →
        WteMove s.block [.mmioRead .sta (readSta s).1] { s.block with polls := s.block.polls + 1, phase := p } :=
      fun p h => .waitGoesOn _ p (.inr ⟨.inl hw, hp, h.imp_left (·.trans hp)⟩)
    cases hd : s.block.wDir with
    | send =>
      refine waitPoll_acts ?_ (.sendWordBegins _ hw hp hd) hgo h
      unfold beginTxWord
      rw [show (readSta s).2.block.wDir = .send from hd]
      rfl
    | receive =>
      refine waitPoll_acts ?_ (.dummyWordBegins _ hw hp hd) hgo h
      unfold beginTxWord
      rw [show (readSta s).2.block.wDir = .receive from hd]
      rfl
  · rename_i hp; exact packByte_acts hw hp h
  · rename_i hp
    obtain ⟨u, hu, hn⟩ := andThen_eq_next.mp h
    cases hn
    obtain ⟨hroom, rfl⟩ := writeTxd_next hu
    rw [nextWord_goWte]
    exact ⟨_, _, .txdWritten hw hp, rfl, .txdWritten _ hroom rfl rfl, rfl⟩
  · rename_i hp; cases h; exact givesUp_acts hp (.inr (.inr (.inl hw)))

theorem takeRxWord_acts {s t : State} (hw : s.block.wte = .b7Rx) (hp : s.block.phase = .last)
    (h : takeRxWord s = .next t) : WteActs s t := by
  unfold takeRxWord at h
  obtain ⟨⟨w, u⟩, hu, hn⟩ := andThen_eq_next.mp h
  dsimp only at hn
  split at hn
  · rename_i hd
    cases hn
    rw [nextWord_goWte, readRxd_block hu]
    exact ⟨_, _, .rxdDiscarded w hw hp (by rw [← readRxd_block hu, hd]), actsAs_readRxd hu _⟩
  · rename_i hd
    cases hn
    refine ⟨_, _, .rxdTaken w hw hp (by rw [← readRxd_block hu, hd]), ?_⟩
    rw [← readRxd_block hu]
    exact actsAs_readRxd hu _

theorem unpackByte_acts {k : Fin 4} {s t : State} (hw : s.block.wte = .b7Rx) (hp : s.block.phase = .byte k)
    (h : unpackByte k s = .next t) : WteActs s t := by
  simp only [unpackByte] at h
  split at h
  · rename_i hx
    obtain ⟨u, hu, hn⟩ := andThen_eq_next.mp h
    cases hn
    rw [nextByte_eq k (nextWord_goWte .next u)]
    rcases dstByte_next hu with ⟨hs, hm⟩ | ⟨hs, h0, rfl⟩
    · obtain ⟨ha, rfl⟩ := memWrite_next hm
      exact ⟨_, _, .stores k _ _ hw hp (.toBuffer hx hs), rfl, .stored _ _ ha rfl rfl, rfl⟩
    · exact ⟨_, _, .stores k _ _ hw hp (.toResp hx hs h0), actsAs_withBlock s _⟩
  · rename_i hx
    cases h
    rw [nextByte_eq k (nextWord_goWte .next s)]
    exact ⟨_, _, .stores k _ _ hw hp (.pastBurst hx), actsAs_withBlock s _⟩

theorem rxWords_acts {s t : State} (hw : s.block.wte = .b7Rx) (h : rxWords s = .next t) : WteActs s t := by
  unfold rxWords at h
  split at h
  · rename_i hp
    refine waitPoll_acts rfl (.rxeHolds _ hw hp) (fun p h => ?_) h
    exact .waitGoesOn _ p (.inr ⟨.inr hw, hp, h.imp_left (·.trans hp)⟩)
  · rename_i hp; exact takeRxWord_acts hw hp h
  · rename_i hp; exact unpackByte_acts hw hp h
  · rename_i hp; cases h; exact givesUp_acts hp (.inr (.inr (.inr hw)))

/-- Everything one action of a running call does. -/
theorem wteAct_acts {s t : State} (hn : s.block.wte ≠ .none) (h : wteAct s = .next t) : WteActs s t := by
  unfold wteAct at h
  split at h <;> rename_i hw
  · exact absurd hw hn
  · cases h; exact wTop_acts hw
  · cases h; exact trigOff_acts hw
  · exact drain_acts hw h
  · exact waitTxe_acts hw h
  · cases h; exact setFl_acts hw
  · exact txWords_acts hw h
  · cases h; exact trigOn_acts hw
  · exact rxWords_acts hw h
  · cases h; exact ⟨_, _, .burstEnds hw, actsAs_withBlock s _⟩

/-- Everything one action of a `cfl` state does. -/
def CflActs (s t : State) : Prop := ∃ es b, CflMove s.block es b ∧ ActsAs s t es b

theorem checkBuffer_acts {c : Cfl} {s : State} (hc : s.block.cfl = .check)
    (h : (s.block.op = 0b000#3 ∧ c = .sendTop) ∨ (s.block.op = 0b001#3 ∧ c = .recvTop)) :
    CflActs s (checkBuffer c s) := by
  unfold checkBuffer
  split
  · exact ⟨_, _, .ends _ (.inl ⟨hc, rfl⟩), actsAs_endRequest _ s⟩
  · rename_i hb; exact ⟨_, _, .bufferChecked c hc (eq_false_of_ne_true hb) h, actsAs_withBlock s _⟩

theorem checkC53_acts {s : State} (hc : s.block.cfl = .check) (hop : s.block.op = 0b011#3 ∨ s.block.op = 0b100#3) :
    CflActs s (checkC53 s) := by
  unfold checkC53
  split
  · exact ⟨_, _, .ends _ (.inl ⟨hc, rfl⟩), actsAs_endRequest _ s⟩
  · rename_i hb; exact ⟨_, _, .cmd53Checked hc (eq_false_of_ne_true hb) hop, actsAs_withBlock s _⟩

@[simp] theorem op_decodeReq (op : BitVec 3) (b n : Word) : (decodeReq op b n).op = op := by
  obtain ⟨⟨k, hk⟩⟩ := op
  interval_cases k <;> rfl

theorem checkRequest_acts {s : State} (hc : s.block.cfl = .check) : CflActs s (checkRequest s) := by
  have hop := op_decodeReq s.block.op s.block.buf s.block.size
  have hill : CflActs s (endRequest .illegalRequest s) :=
    ⟨_, _, .ends _ (.inl ⟨hc, rfl⟩), actsAs_endRequest _ s⟩
  unfold checkRequest
  split <;> rename_i hi <;> rw [hi] at hop
  · exact checkBuffer_acts hc (.inl ⟨hop.symm, rfl⟩)
  · exact checkBuffer_acts hc (.inr ⟨hop.symm, rfl⟩)
  · exact ⟨_, _, .cmd0Checked hc hop.symm, actsAs_withBlock s _⟩
  · exact checkC53_acts hc (.inl hop.symm)
  · exact checkC53_acts hc (.inr hop.symm)
  all_goals exact hill

theorem c53Top_acts {s : State} (hc : s.block.cfl = .c53Top) : CflActs s (c53Top s) := by
  unfold c53Top
  split
  · rename_i h; exact ⟨_, _, .noChunkLeft hc h, actsAs_withBlock s _⟩
  · rename_i h; exact ⟨_, _, .chunkBegins hc h, actsAs_withBlock s _⟩

/-- A call from a `cfl` state that makes it. -/
theorem callWte_acts {d : Dir} {w : WSrc} {base n : Word} {s : State}
    (h : callOk (callWte d w base n s).block) : CflActs s (callWte d w base n s) :=
  ⟨_, _, .calls d w base n h, actsAs_withBlock s _⟩

theorem cflAct_acts {s : State} (hb : s.busy = true) : CflActs s (cflAct s) := by
  unfold cflAct
  split <;> rename_i hc
  · exact absurd hc ((State.busy_iff s).mp hb)
  · exact checkRequest_acts hc
  case h_7 => exact ⟨_, _, .ends _ (.inr (.inl ⟨hc, rfl⟩)), actsAs_endRequest _ s⟩
  case h_8 => exact c53Top_acts hc
  case h_12 => exact ⟨_, _, .chunkEnds hc, actsAs_withBlock s _⟩
  case h_13 => exact ⟨_, _, .ends _ (.inr (.inr ⟨hc, rfl⟩)), actsAs_endRequest _ s⟩
  all_goals exact callWte_acts (by simp [callOk, callWte, hc, isRead])

/-- Everything one action of a busy block does. -/
theorem act_acts {s t : State} (hb : s.busy = true) (h : act s = .next t) :
    ∃ es, BlockMove s.block es t.block ∧ t.trace = s.trace ++ es ∧ Access s t es := by
  by_cases hw : s.block.wte = .none
  · rw [act_eq_cflAct hw] at h
    cases h
    obtain ⟨es, b, hm, ha⟩ := cflAct_acts hb
    exact ⟨es, .inl ⟨hw, by rw [ha.block]; exact hm⟩, ha.trace, ha.access⟩
  · rw [act_eq_wteAct hw] at h
    obtain ⟨es, b, hm, ha⟩ := wteAct_acts hw h
    exact ⟨es, .inr ⟨hw, by rw [ha.block]; exact hm⟩, ha.trace, ha.access⟩

end Sys2Proof.Machine

namespace Sys2Proof.Machine

/-! ## The invariant of the block's registers -/

/-- The part of the invariant that speaks of the block's registers alone. -/
structure BlockOk (b : Block) : Prop where
  callOk : b.wte ≠ .none → callOk b
  burstOk : burstOk b
  requestOk : requestOk b
  chunkOk : chunkOk b

/-- The burst in progress is not empty and lies inside its call (R111). -/
def BurstFits (b : Block) : Prop :=
  1 ≤ b.blen.toNat ∧ b.blen.toNat ≤ burstMax ∧ b.wOff.toNat + b.blen.toNat ≤ b.wSize.toNat

/-- Inside a burst the invariant is that the burst fits, and that the word index does in B5 and B7. -/
theorem burstOk_iff {b : Block} (hn : b.wte ≠ .none) (ht : b.wte ≠ .top) :
    burstOk b ↔ BurstFits b ∧ (b.wte = .b5Words ∨ b.wte = .b7Rx → b.wj.toNat < burstWords b) := by
  unfold burstOk BurstFits
  split <;> simp_all [and_assoc]

theorem toNat_burstLen (b : Block) : (burstLen b).toNat = min (b.wSize.toNat - b.wOff.toNat) burstMax := by
  rw [burstLen, BitVec.toNat_ofNat, Nat.mod_eq_of_lt]
  unfold burstMax; omega

theorem toNat_chunkLen (b : Block) : (chunkLen b).toNat = min b.rem.toNat chunkMax := by
  rw [chunkLen, BitVec.toNat_ofNat, Nat.mod_eq_of_lt]
  unfold chunkMax; omega

/-- The word index has room for one more word. -/
theorem toNat_wj_succ {b : Block} (hb : b.blen.toNat ≤ burstMax) (hj : b.wj.toNat < burstWords b) :
    (b.wj + 1).toNat = b.wj.toNat + 1 := by
  unfold burstWords at hj
  unfold burstMax at hb
  rw [BitVec.toNat_add, Nat.mod_eq_of_lt]
  · rfl
  · change b.wj.toNat + 1 < 16; omega

/-- The two things `wordDone` can do: the next word of the same state, or the state that follows. -/
theorem wordDone_cases (after : Wte) (b : Block) :
    ((b.wj + 1).toNat < burstWords b
        ∧ wordDone after b = { b with wj := b.wj + 1, phase := .start, polls := 0 })
    ∨ (burstWords b ≤ (b.wj + 1).toNat
        ∧ wordDone after b = { b with wj := b.wj + 1, wte := after, phase := .start }) := by
  unfold wordDone
  split
  · rename_i h; exact .inl ⟨h, rfl⟩
  · rename_i h; exact .inr ⟨Nat.le_of_not_lt h, rfl⟩

/-- The two things `byteDone` can do: the next byte of the word, or the end of the word. -/
theorem byteDone_cases (k : Fin 4) (fin b : Block) :
    (∃ h : k.val + 1 < 4, byteDone k fin b = { b with phase := .byte ⟨k.val + 1, h⟩ })
    ∨ (k.val = 3 ∧ byteDone k fin b = fin) := by
  unfold byteDone
  split
  · rename_i h; exact .inl ⟨h, rfl⟩
  · exact .inr ⟨by omega, rfl⟩

/-- After byte k of a word of B5 only the phase moves. -/
theorem byteDone_last (k : Fin 4) (b : Block) : ∃ p, byteDone k { b with phase := .last } b = { b with phase := p } := by
  rcases byteDone_cases k { b with phase := .last } b with ⟨_, he⟩ | ⟨_, he⟩
  · exact ⟨_, he⟩
  · exact ⟨_, he⟩

/-- A burst goes on, or begins, inside the same call. -/
theorem BlockOk.inBurst {b b' : Block} (h : BlockOk b) (hn : b.wte ≠ .none)
    (hcall : Machine.callOk b' = Machine.callOk b) (hreq : Machine.requestOk b' = Machine.requestOk b) (hchunk : Machine.chunkOk b' = Machine.chunkOk b)
    (hn' : b'.wte ≠ .none) (ht' : b'.wte ≠ .top) (hfits : BurstFits b')
    (hj : b'.wte = .b5Words ∨ b'.wte = .b7Rx → b'.wj.toNat < burstWords b') : BlockOk b' :=
  ⟨fun _ => hcall ▸ h.callOk hn, (burstOk_iff hn' ht').mpr ⟨hfits, hj⟩, hreq ▸ h.requestOk, hchunk ▸ h.chunkOk⟩

/-- A move inside a burst that leaves the burst and the call as they are. -/
theorem BlockOk.sameBurst {b b' : Block} (h : BlockOk b) (hn : b.wte ≠ .none) (ht : b.wte ≠ .top) (hn' : b'.wte ≠ .none)
    (ht' : b'.wte ≠ .top) (hcall : Machine.callOk b' = Machine.callOk b)
    (hreq : Machine.requestOk b' = Machine.requestOk b) (hchunk : Machine.chunkOk b' = Machine.chunkOk b)
    (hfits : BurstFits b' = BurstFits b) (hj : b'.wte = .b5Words ∨ b'.wte = .b7Rx → b'.wj.toNat < burstWords b') :
    BlockOk b' :=
  h.inBurst hn hcall hreq hchunk hn' ht' (hfits ▸ ((burstOk_iff hn ht).mp h.burstOk).1) hj

/-- A call that returns leaves the sequencer where its `cfl` state goes on (R125, R128, R145, R151). -/
theorem BlockOk.callReturns {b : Block} (h : BlockOk b) (hn : b.wte ≠ .none) :
    BlockOk { b with wte := .none, cfl := afterCall b.cfl } := by
  have hcall := h.callOk hn
  have hreq := h.requestOk
  have hchunk := h.chunkOk
  refine ⟨fun hw => absurd rfl hw, trivial, ?_, ?_⟩
  · cases hc : b.cfl <;> simp_all [Machine.callOk, Machine.requestOk, afterCall]
  · cases hc : b.cfl <;> simp_all [Machine.callOk, Machine.chunkOk, afterCall]

/-- The end of a word keeps the invariant. -/
theorem BlockOk.wordDone {b : Block} {after : Wte} (h : BlockOk b) (hw : b.wte = .b5Words ∨ b.wte = .b7Rx)
    (ha : after = .b6TrigOn ∨ after = .next) : BlockOk (wordDone after b) := by
  have hn : b.wte ≠ .none := by rcases hw with hw | hw <;> simp [hw]
  have ht : b.wte ≠ .top := by rcases hw with hw | hw <;> simp [hw]
  obtain ⟨hfits, -⟩ := (burstOk_iff hn ht).mp h.burstOk
  rcases wordDone_cases after b with ⟨hj, he⟩ | ⟨-, he⟩ <;> rw [he]
  · exact h.inBurst hn rfl rfl rfl hn ht hfits fun _ => hj
  · refine h.inBurst hn rfl rfl rfl ?_ ?_ hfits ?_
    all_goals rcases ha with rfl | rfl <;> simp

/-- Every move of a running call keeps the invariant. -/
theorem WteMove.keeps_ok {b b' : Block} {es : List Event} (hm : WteMove b es b') (h : BlockOk b) (hn : b.wte ≠ .none) :
    BlockOk b' := by
  have hin (ht : b.wte ≠ .top) := (burstOk_iff hn ht).mp h.burstOk
  cases hm with
  | callReturns hw he => exact h.callReturns hn
  | burstBegins hw hne =>
    have hle := h.burstOk
    simp only [Machine.burstOk, hw] at hle
    have hlt : b.wOff.toNat < b.wSize.toNat := lt_of_le_of_ne hle fun e => hne (BitVec.eq_of_toNat_eq e)
    refine h.inBurst hn rfl rfl rfl (by simp) (by simp) ?_ (by simp)
    simp only [BurstFits, toNat_burstLen, burstMax]
    omega
  | ctlRead v hw =>
    have hw' : b.wte ≠ .top ∧ b.wte ≠ .b5Words ∧ b.wte ≠ .b7Rx := by rcases hw with hw | hw | hw <;> simp [hw]
    exact h.sameBurst hn hw'.1 hn hw'.1 rfl rfl rfl rfl (by simp [hw'.2.1, hw'.2.2])
  | trigOff v hw => exact h.sameBurst hn (by simp [hw]) (by simp) (by simp) rfl rfl rfl rfl (by simp)
  | drainGoesOn v p hw => exact h.sameBurst hn (by simp [hw]) hn (by simp [hw]) rfl rfl rfl rfl (by simp [hw])
  | drainTakes w hw => exact h.sameBurst hn (by simp [hw]) hn (by simp [hw]) rfl rfl rfl rfl (by simp [hw])
  | drainEnds v hw => exact h.sameBurst hn (by simp [hw]) (by simp) (by simp) rfl rfl rfl rfl (by simp)
  | waitGoesOn v p hw =>
    have ht : b.wte ≠ .top := by rcases hw with hw | ⟨hw | hw, -⟩ <;> simp [hw]
    exact h.sameBurst hn ht hn ht rfl rfl rfl rfl (hin ht).2
  | txeHolds v hw => exact h.sameBurst hn (by simp [hw]) (by simp) (by simp) rfl rfl rfl rfl (by simp)
  | flSet v hw =>
    have ht : b.wte ≠ .top := by simp [hw]
    refine h.sameBurst hn ht (by simp) (by simp) rfl rfl rfl rfl fun _ => ?_
    have hpos := (hin ht).1.1
    change 0 < (b.blen.toNat + 3) / 4
    omega
  | dummyWordBegins v hw hp hd =>
    exact h.sameBurst hn (by simp [hw]) hn (by simp [hw]) rfl rfl rfl rfl (hin (by simp [hw])).2
  | sendWordBegins v hw hp hd =>
    exact h.sameBurst hn (by simp [hw]) hn (by simp [hw]) rfl rfl rfl rfl (hin (by simp [hw])).2
  | packs k es v hw hp hv =>
    obtain ⟨p, he⟩ := byteDone_last k { b with latch := setByte b.latch k v }
    rw [he]
    exact h.sameBurst hn (by simp [hw]) hn (by simp [hw]) rfl rfl rfl rfl (hin (by simp [hw])).2
  | txdWritten hw hp => exact h.wordDone (.inl hw) (.inl rfl)
  | trigOn v hw =>
    have ht : b.wte ≠ .top := by simp [hw]
    refine h.sameBurst hn ht (by simp) (by simp) rfl rfl rfl rfl fun _ => ?_
    have hpos := (hin ht).1.1
    change 0 < (b.blen.toNat + 3) / 4
    omega
  | rxeHolds v hw hp => exact h.sameBurst hn (by simp [hw]) hn (by simp [hw]) rfl rfl rfl rfl (hin (by simp [hw])).2
  | rxdDiscarded w hw hp hd => exact h.wordDone (.inr hw) (.inr rfl)
  | rxdTaken w hw hp hd => exact h.sameBurst hn (by simp [hw]) hn (by simp [hw]) rfl rfl rfl rfl (hin (by simp [hw])).2
  | stores k es r hw hp hr =>
    have hresp : BlockOk { b with resp := r } :=
      h.sameBurst hn (by simp [hw]) hn (by simp [hw]) rfl rfl rfl rfl (hin (by simp [hw])).2
    rcases byteDone_cases k (Machine.wordDone .next { b with resp := r }) { b with resp := r } with
      ⟨_, he⟩ | ⟨_, he⟩ <;> rw [he]
    · exact h.sameBurst hn (by simp [hw]) hn (by simp [hw]) rfl rfl rfl rfl (hin (by simp [hw])).2
    · exact hresp.wordDone (.inr hw) (.inr rfl)
  | burstEnds hw =>
    obtain ⟨-, hmax, hle⟩ := (hin (by simp [hw])).1
    refine ⟨fun _ => h.callOk hn, ?_, h.requestOk, h.chunkOk⟩
    simp only [Machine.burstOk, BitVec.toNat_add, BitVec.toNat_setWidth]
    omega
  | givesUp hp hw => exact ⟨fun hw' => absurd rfl hw', trivial, trivial, trivial⟩

/-- Every move of a `cfl` state keeps the invariant. -/
theorem CflMove.keeps_ok {b b' : Block} {es : List Event} (hm : CflMove b es b') (h : BlockOk b) (hn : b.wte = .none) :
    BlockOk b' := by
  have hreq := h.requestOk
  have hchunk := h.chunkOk
  have hquiet : ∀ {b'' : Block}, b''.wte = .none → Machine.requestOk b'' → Machine.chunkOk b'' → BlockOk b'' :=
    fun hw h1 h2 => ⟨fun h => absurd hw h, by simp [Machine.burstOk, hw], h1, h2⟩
  cases hm with
  | ends st he => exact hquiet rfl trivial trivial
  | bufferChecked c hc hb hop =>
    rcases hop with ⟨hop, rfl⟩ | ⟨hop, rfl⟩
    · exact hquiet hn ⟨hop, hb⟩ trivial
    · exact hquiet hn ⟨hop, hb⟩ trivial
  | cmd0Checked hc hop => exact hquiet hn hop trivial
  | cmd53Checked hc hb hop => exact hquiet hn ⟨hop, hb⟩ (by simp [Machine.chunkOk])
  | calls d w base n hcall => exact ⟨fun _ => hcall, Nat.zero_le _, hreq, hchunk⟩
  | chunkBegins hc hne =>
    simp only [Machine.requestOk, Machine.chunkOk, hc] at hreq hchunk
    have hpos : b.rem.toNat ≠ 0 := fun e => hne (BitVec.eq_of_toNat_eq e)
    refine hquiet hn hreq ⟨hchunk, ?_⟩
    change 1 ≤ (chunkLen b).toNat ∧ (chunkLen b).toNat ≤ chunkMax ∧ (chunkLen b).toNat ≤ b.rem.toNat
    simp only [toNat_chunkLen, chunkMax]
    omega
  | noChunkLeft hc he =>
    simp only [Machine.requestOk, hc] at hreq
    refine hquiet hn ?_ trivial
    change b.op ≠ 0b010#3
    rcases hreq.1 with hop | hop <;> simp [hop]
  | chunkEnds hc =>
    simp only [Machine.requestOk, Machine.chunkOk, hc] at hreq hchunk
    refine hquiet hn hreq ?_
    change (b.cur + b.chunk.setWidth 32).toNat + (b.rem - b.chunk.setWidth 32).toNat = b.size.toNat
    have hsize := b.size.isLt
    have hw : (b.chunk.setWidth 32).toNat = b.chunk.toNat := by simp; omega
    rw [BitVec.toNat_add, BitVec.toNat_sub, hw]
    omega

/-- Every move keeps the invariant. -/
theorem BlockMove.keeps_ok {b b' : Block} {es : List Event} (hm : BlockMove b es b') (h : BlockOk b) : BlockOk b' := by
  rcases hm with ⟨hn, hm⟩ | ⟨hn, hm⟩
  · exact hm.keeps_ok h hn
  · exact hm.keeps_ok h hn

/-- A request begins inside the invariant, whatever the registers held. -/
theorem blockOk_accept (op : BitVec 3) (buf size : Word) (s : State) : BlockOk (accept op buf size s).block := by
  rw [accept_block]
  exact ⟨fun h => absurd rfl h, trivial, trivial, trivial⟩

end Sys2Proof.Machine

namespace Sys2Proof.Machine

/-! ## What a request leaves in the registers, and its one completion strobe -/

/-- The end of a word moves the word index, the poll count and the sequencer, and no other register. -/
theorem wordDone_eq (after : Wte) (b : Block) :
    ∃ p w, wordDone after b = { b with wj := b.wj + 1, phase := .start, polls := p, wte := w } := by
  rcases wordDone_cases after b with ⟨-, h⟩ | ⟨-, h⟩
  · exact ⟨_, _, h⟩
  · exact ⟨_, _, h⟩

/-- What a call never touches: the CMD53 registers and, unless the received bytes go there, `resp`. -/
structure WteKeeps (b b' : Block) : Prop where
  cur : b'.cur = b.cur
  rem : b'.rem = b.rem
  chunk : b'.chunk = b.chunk
  hdr : b'.hdr = b.hdr
  resp : b.wSrc ≠ .resp → b'.resp = b.resp

theorem WteKeeps.refl (b : Block) : WteKeeps b b := ⟨rfl, rfl, rfl, rfl, fun _ => rfl⟩

/-- A word's end after a byte is stored keeps what the call keeps. -/
theorem WteKeeps.wordDone {b b' : Block} (h : WteKeeps b b') (after : Wte) :
    WteKeeps b (wordDone after b') := by
  obtain ⟨p, w, he⟩ := wordDone_eq after b'
  rw [he]
  exact ⟨h.cur, h.rem, h.chunk, h.hdr, h.resp⟩

theorem StoredByte.resp_eq {b : Block} {k : Fin 4} {es : List Event} {r : Byte} (h : StoredByte b k es r)
    (hs : b.wSrc ≠ .resp) : r = b.resp := by
  cases h with
  | toBuffer => rfl
  | toResp hx hs' => exact absurd hs' hs
  | pastBurst => rfl

theorem WteMove.keeps {b b' : Block} {es : List Event} (hm : WteMove b es b') : WteKeeps b b' := by
  cases hm with
  | packs k es v hw hp hv =>
    obtain ⟨p, he⟩ := byteDone_last k { b with latch := setByte b.latch k v }
    rw [he]
    exact ⟨rfl, rfl, rfl, rfl, fun _ => rfl⟩
  | txdWritten => exact (WteKeeps.refl b).wordDone _
  | rxdDiscarded => exact (WteKeeps.refl b).wordDone _
  | stores k es r hw hp hr =>
    have hresp : WteKeeps b { b with resp := r } := ⟨rfl, rfl, rfl, rfl, hr.resp_eq⟩
    rcases byteDone_cases k (Machine.wordDone .next { b with resp := r }) { b with resp := r } with
      ⟨_, he⟩ | ⟨_, he⟩ <;> rw [he]
    · exact ⟨rfl, rfl, rfl, rfl, hresp.resp⟩
    · exact hresp.wordDone _
  | _ => exact ⟨rfl, rfl, rfl, rfl, fun _ => rfl⟩

/-- Only CMD53 touches the CMD53 registers, and only CMD0 touches `resp`. -/
theorem BlockMove.keeps_unused {b b' : Block} {es : List Event} (hm : BlockMove b es b') (h : BlockOk b) :
    (b.op ≠ 0b011#3 → b.op ≠ 0b100#3 → b'.cur = b.cur ∧ b'.rem = b.rem ∧ b'.chunk = b.chunk ∧ b'.hdr = b.hdr)
    ∧ (b.op ≠ 0b010#3 → b'.resp = b.resp) := by
  rcases hm with ⟨hn, hm⟩ | ⟨hn, hm⟩
  · have hreq := h.requestOk
    cases hm with
    | cmd53Checked hc hb hop => exact ⟨fun h1 h2 => (hop.elim h1 h2).elim, fun _ => rfl⟩
    | chunkBegins hc =>
      simp only [Machine.requestOk, hc] at hreq
      exact ⟨fun h1 h2 => (hreq.1.elim h1 h2).elim, fun _ => rfl⟩
    | chunkEnds hc =>
      simp only [Machine.requestOk, hc] at hreq
      exact ⟨fun h1 h2 => (hreq.1.elim h1 h2).elim, fun _ => rfl⟩
    | _ => exact ⟨fun _ _ => ⟨rfl, rfl, rfl, rfl⟩, fun _ => rfl⟩
  · have hk := hm.keeps
    refine ⟨fun _ _ => ⟨hk.cur, hk.rem, hk.chunk, hk.hdr⟩, fun hop => hk.resp fun hs => hop ?_⟩
    have hcall := h.callOk hn
    have hreq := h.requestOk
    cases hc : b.cfl <;> simp_all [Machine.callOk, Machine.requestOk]

/-- What a request i leaves in the registers, from the state s it was made in. -/
structure UnusedKept (i : Instr) (s u : State) : Prop where
  ok : BlockOk u.block
  own : u.block.op = i.op ∧ u.block.buf = i.buf ∧ u.block.size = i.size
  cmd53 : i.op ≠ 0b011#3 → i.op ≠ 0b100#3 →
    u.block.cur = s.block.cur ∧ u.block.rem = s.block.rem ∧ u.block.chunk = s.block.chunk ∧ u.block.hdr = s.block.hdr
  cmd0 : i.op ≠ 0b010#3 → u.block.resp = s.block.resp

theorem UnusedKept.act {i : Instr} {s u v : State} (h : UnusedKept i s u) (hb : u.busy = true) (hv : act u = .next v) :
    UnusedKept i s v := by
  obtain ⟨es, hm, -, -⟩ := act_acts hb hv
  obtain ⟨k53, k0⟩ := hm.keeps_unused h.ok
  obtain ⟨hop, hbuf, hsize⟩ := h.own
  have ha := act_actOnly hv
  rw [hop] at k53 k0
  refine ⟨hm.keeps_ok h.ok, ⟨ha.op.trans hop, ha.buf.trans hbuf, ha.size.trans hsize⟩, fun n1 n2 => ?_,
    fun n => (k0 n).trans (h.cmd0 n)⟩
  obtain ⟨a1, a2, a3, a4⟩ := k53 n1 n2
  obtain ⟨b1, b2, b3, b4⟩ := h.cmd53 n1 n2
  exact ⟨a1.trans b1, a2.trans b2, a3.trans b3, a4.trans b4⟩

/-- Settles O35: acceptance loads the request's own registers, and no move changes them or one the request does not
use. -/
theorem requestsKeepTheRegistersTheyDoNotUse : Obligations.RequestsKeepTheRegistersTheyDoNotUse := by
  intro i s t hb hr h
  obtain ⟨-, ⟨hop, hbuf, hsize⟩, h53, h0⟩ : UnusedKept i s t := by
    refine exec_keeps (UnusedKept i s) hb hr h ⟨blockOk_accept _ _ _ _, by simp, by simp, by simp⟩ ?_
      fun u v hu hbu hv => hu.act hbu hv
    rintro u v ⟨h1, h2, h3, h4⟩ hv
    rw [← hv.block] at h1 h2 h3 h4
    exact ⟨h1, h2, h3, h4⟩
  exact ⟨hop, hbuf, hsize, h53, h0⟩

/-! ## The completion strobe -/

/-- The peripheral's steps add only link bytes, which no other view of the trace sees. -/
theorem PeriphOnly.filterMap_trace {α : Type} {s t : State} (h : PeriphOnly s t) {f : Event → Option α}
    (hf : ∀ o i, f (.wire o i) = none) : t.trace.filterMap f = s.trace.filterMap f := by
  obtain ⟨ws, hws, hwire⟩ := h.trace
  have hnone : ws.filterMap f = [] := by
    refine List.filterMap_eq_nil_iff.mpr fun e he => ?_
    obtain ⟨o, i, rfl⟩ := hwire e he
    exact hf o i
  rw [hws, List.filterMap_append, hnone, List.append_nil]

theorem PackedByte.completions {b : Block} {k : Fin 4} {es : List Event} {v : Byte} (h : PackedByte b k es v) :
    es.filterMap Event.completed? = [] := by cases h <;> rfl

theorem StoredByte.completions {b : Block} {k : Fin 4} {es : List Event} {r : Byte} (h : StoredByte b k es r) :
    es.filterMap Event.completed? = [] := by cases h <;> rfl

/-- A call gives a completion strobe only by giving up (R112). -/
theorem WteMove.completions {b b' : Block} {es : List Event} (hm : WteMove b es b') :
    es.filterMap Event.completed? = [] ∧ (b'.cfl = b.cfl ∨ b'.cfl = afterCall b.cfl)
    ∨ es.filterMap Event.completed? = [b'.status] ∧ b'.cfl = .idle := by
  cases hm with
  | callReturns => exact .inl ⟨rfl, .inr rfl⟩
  | packs k es v hw hp hv =>
    obtain ⟨p, he⟩ := byteDone_last k { b with latch := setByte b.latch k v }
    exact .inl ⟨hv.completions, .inl (by rw [he])⟩
  | txdWritten =>
    obtain ⟨p, w, he⟩ := wordDone_eq .b6TrigOn b
    exact .inl ⟨rfl, .inl (by rw [he])⟩
  | rxdDiscarded =>
    obtain ⟨p, w, he⟩ := wordDone_eq .next b
    exact .inl ⟨rfl, .inl (by rw [he])⟩
  | stores k es r hw hp hr =>
    refine .inl ⟨hr.completions, .inl ?_⟩
    obtain ⟨p, w, hd⟩ := wordDone_eq .next { b with resp := r }
    rcases byteDone_cases k (Machine.wordDone .next { b with resp := r }) { b with resp := r } with
      ⟨_, he⟩ | ⟨_, he⟩ <;> rw [he]
    rw [hd]
  | givesUp => exact .inr ⟨rfl, rfl⟩
  | _ => exact .inl ⟨rfl, .inl rfl⟩

/-- A move of a busy block either goes on without a strobe, or ends the request with the strobe of its status. -/
theorem BlockMove.completions {b b' : Block} {es : List Event} (hm : BlockMove b es b') (h : BlockOk b)
    (hb : b.cfl ≠ .idle) :
    es.filterMap Event.completed? = [] ∧ b'.cfl ≠ .idle
    ∨ es.filterMap Event.completed? = [b'.status] ∧ b'.cfl = .idle := by
  rcases hm with ⟨-, hm⟩ | ⟨hn, hm⟩
  · cases hm with
    | ends => exact .inr ⟨rfl, rfl⟩
    | bufferChecked c hc hbad hop => rcases hop with ⟨-, rfl⟩ | ⟨-, rfl⟩ <;> exact .inl ⟨rfl, by simp⟩
    | calls d w base n => exact .inl ⟨rfl, hb⟩
    | _ => exact .inl ⟨rfl, by simp⟩
  · have hafter : afterCall b.cfl ≠ .idle := by
      have hcall := h.callOk hn
      cases hc : b.cfl <;> simp_all [Machine.callOk, afterCall]
    rcases hm.completions with ⟨he, hc | hc⟩ | hend
    · exact .inl ⟨he, by rw [hc]; exact hb⟩
    · exact .inl ⟨he, by rw [hc]; exact hafter⟩
    · exact .inr hend

/-- Settles O18: the move that ends the request gives its strobe, and no move before it gives one. -/
theorem completionStrobeIsGivenOnce : Obligations.CompletionStrobeIsGivenOnce := by
  intro i s t hb hr h
  refine (exec_keeps (fun u => BlockOk u.block ∧ (u.busy = false → u.completions = s.completions ++ [u.block.status])
    ∧ (u.busy = true → u.completions = s.completions)) hb hr h
    ⟨blockOk_accept _ _ _ _, by simp, by simp [State.completions]⟩ ?_ ?_).2
  · rintro u v hu hv
    rw [State.busy, State.completions, hv.block, hv.filterMap_trace fun _ _ => rfl]
    exact hu
  · rintro u v ⟨hok, -, hgo⟩ hbu hv
    obtain ⟨es, hm, htrace, -⟩ := act_acts hbu hv
    have hview : v.completions = u.completions ++ es.filterMap Event.completed? := by
      rw [State.completions, htrace, List.filterMap_append]; rfl
    rw [hview, hgo hbu, State.busy_iff, State.busy_false_iff]
    refine ⟨hm.keeps_ok hok, ?_⟩
    rcases hm.completions hok ((State.busy_iff u).mp hbu) with ⟨he, hc⟩ | ⟨he, hc⟩
    · exact ⟨fun hi => absurd hi hc, fun _ => by rw [he, List.append_nil]⟩
    · exact ⟨fun _ => by rw [he], fun hi => absurd hc hi⟩

end Sys2Proof.Machine

namespace Sys2Proof.Machine

/-! ## How far a request has come in its Transfer Buffer -/

/-- A byte of a word is packed only by a send, and unpacked only by a receive (R117, R119). -/
def PhaseOk (b : Block) : Prop :=
  (∀ k, b.wte = .b5Words → b.phase = .byte k → b.wDir = .send)
  ∧ ∀ k, b.wte = .b7Rx → b.phase = .byte k → b.wDir = .receive

/-- Outside B5 and B7, and at the first or last action of a word there, no byte is in hand. -/
theorem phaseOk_of_no_byte {b : Block} (h : b.wte = .b5Words ∨ b.wte = .b7Rx → ∀ k, b.phase ≠ .byte k) : PhaseOk b :=
  ⟨fun k hw hp => absurd hp (h (.inl hw) k), fun k hw hp => absurd hp (h (.inr hw) k)⟩

theorem phaseOk_wordDone {after : Wte} {b : Block} : PhaseOk (wordDone after b) := by
  obtain ⟨p, w, he⟩ := wordDone_eq after b
  rw [he]
  exact phaseOk_of_no_byte (by simp)

theorem BlockMove.keeps_phaseOk {b b' : Block} {es : List Event} (hm : BlockMove b es b') (h : PhaseOk b) :
    PhaseOk b' := by
  rcases hm with ⟨hn, hm⟩ | ⟨hn, hm⟩
  · cases hm <;> exact phaseOk_of_no_byte (by simp [hn])
  · cases hm with
    | waitGoesOn v p hw =>
      refine phaseOk_of_no_byte fun h' => ?_
      rcases hw with hw | ⟨-, -, rfl | rfl⟩
      · simp [hw] at h'
      · simp
      · simp
    | sendWordBegins v hw hp hd => exact ⟨fun _ _ _ => hd, fun _ hw' => absurd (hw.symm.trans hw') (by simp)⟩
    | rxdTaken w hw hp hd => exact ⟨fun _ hw' => absurd (hw.symm.trans hw') (by simp), fun _ _ _ => hd⟩
    | packs k es v hw hp hv =>
      rcases byteDone_cases k { b with latch := setByte b.latch k v, phase := .last }
        { b with latch := setByte b.latch k v } with ⟨_, he⟩ | ⟨_, he⟩ <;> rw [he]
      · exact ⟨fun _ _ _ => h.1 k hw hp, fun _ hw' => absurd (hw.symm.trans hw') (by simp)⟩
      · exact phaseOk_of_no_byte (by simp)
    | stores k es r hw hp hr =>
      rcases byteDone_cases k (wordDone .next { b with resp := r }) { b with resp := r } with ⟨_, he⟩ | ⟨_, he⟩ <;>
      rw [he]
      · exact ⟨fun _ hw' => absurd (hw.symm.trans hw') (by simp), fun _ _ _ => h.2 k hw hp⟩
      · exact phaseOk_wordDone
    | txdWritten => exact phaseOk_wordDone
    | rxdDiscarded => exact phaseOk_wordDone
    | ctlRead v hw => exact phaseOk_of_no_byte (by simp)
    | drainGoesOn v p hw hp => exact phaseOk_of_no_byte (by simp [hw])
    | _ => exact phaseOk_of_no_byte (by simp)

/-- Bytes of the burst that B5 has packed. -/
def packed (b : Block) : Nat :=
  min b.blen.toNat (match b.phase with
    | .byte k => burstPos b k
    | .last => burstPos b 4
    | _ => burstPos b 0)

/-- Bytes of the burst that B7 has stored. -/
def unpacked (b : Block) : Nat :=
  min b.blen.toNat (match b.phase with
    | .byte k => burstPos b k
    | _ => burstPos b 0)

/-- Bytes of the burst in progress that the block has fetched, by a send, or stored, by a receive (R113). -/
def burstMoved (b : Block) : Nat :=
  match b.wDir, b.wte with
  | .send, .b5Words => packed b
  | .send, .b6TrigOn => b.blen.toNat
  | .send, .b7Rx => b.blen.toNat
  | .receive, .b7Rx => unpacked b
  | _, .next => b.blen.toNat
  | _, _ => 0

/-- Bytes of the call in progress that the block has fetched or stored (R111). -/
def callMoved (b : Block) : Nat := if b.wte = .none then 0 else b.wOff.toNat + burstMoved b

/-- Bytes of the Transfer Buffer that the request has fetched or stored (R125, R128, R150, R151). -/
def bufferMoved (b : Block) : Nat :=
  match b.cfl with
  | .sendTop => callMoved b
  | .recvTop => callMoved b
  | .c53Top => b.cur.toNat
  | .c53Hdr => b.cur.toNat
  | .c53Pay => b.cur.toNat + callMoved b
  | .c53Trl => b.cur.toNat + b.chunk.toNat
  | .c53Next => b.cur.toNat + b.chunk.toNat
  | .finish => b.size.toNat
  | _ => 0

/-- The events access n buffer bytes, 0 or 1, and the one at a: a read where `reads`, a write where `writes`. -/
inductive BufferAccess (reads writes : Prop) (a : Nat) (es : List Event) : Nat → Prop
  | none (hr : es.filterMap Event.readAddr? = []) (hw : es.filterMap Event.writeAddr? = []) :
      BufferAccess reads writes a es 0
  | read (h : reads) (hr : es.filterMap Event.readAddr? = [a]) (hw : es.filterMap Event.writeAddr? = []) :
      BufferAccess reads writes a es 1
  | write (h : writes) (hr : es.filterMap Event.readAddr? = []) (hw : es.filterMap Event.writeAddr? = [a]) :
      BufferAccess reads writes a es 1

theorem BufferAccess.imp {r w r' w' : Prop} {a a' n : Nat} {es : List Event} (h : BufferAccess r w a es n)
    (hr : r → r') (hw : w → w') (ha : a = a') : BufferAccess r' w' a' es n := by
  subst ha
  cases h with
  | none h1 h2 => exact .none h1 h2
  | read hd h1 h2 => exact .read (hr hd) h1 h2
  | write hd h1 h2 => exact .write (hw hd) h1 h2

/-- What a move of a running call does to the buffer: it goes on, one byte further for each access when the call is on
the buffer; or the call returns with all its bytes moved; or it gives up. -/
inductive CallStep (b : Block) (es : List Event) (b' : Block) : Prop
  | goesOn (n : Nat) (hacc : BufferAccess (b.wDir = .send) (b.wDir = .receive) (b.wBase.toNat + callMoved b) es n)
      (hsrc : b.wSrc ≠ .buf → n = 0) (hmoved : b.wSrc = .buf → callMoved b' = callMoved b + n)
      (hcfl : b'.cfl = b.cfl)
  | returns (hes : es = []) (hmoved : callMoved b = b.wSize.toNat)
      (hb : b' = { b with wte := .none, cfl := afterCall b.cfl })
  | givesUp (hes : es = [.complete .deviceNotResponding])
      (hb : b' = { b with status := .deviceNotResponding, cfl := .idle, wte := .none })

/-- A move with no access to the buffer leaves the call where it is in it. -/
theorem CallStep.quiet {b b' : Block} {es : List Event} (hr : es.filterMap Event.readAddr? = [])
    (hw : es.filterMap Event.writeAddr? = []) (hcfl : b'.cfl = b.cfl) (hn : b.wte ≠ .none) (hn' : b'.wte ≠ .none)
    (hoff : b'.wOff = b.wOff) (hmoved : burstMoved b' = burstMoved b) : CallStep b es b' :=
  .goesOn 0 (.none hr hw) (fun _ => rfl) (fun _ => by simp [callMoved, hn, hn', hoff, hmoved]) hcfl

theorem BlockOk.burst {b : Block} (h : BlockOk b) (hw : b.wte = .b5Words ∨ b.wte = .b7Rx) :
    BurstFits b ∧ b.wj.toNat < burstWords b := by
  have hn : b.wte ≠ .none := by rcases hw with hw | hw <;> simp [hw]
  have ht : b.wte ≠ .top := by rcases hw with hw | hw <;> simp [hw]
  exact ((burstOk_iff hn ht).mp h.burstOk).imp_right (· hw)

/-- When the last word of the burst is done, all its bytes are. -/
theorem blen_le_of_words_done {b : Block} (h : burstWords b ≤ b.wj.toNat + 1) : b.blen.toNat ≤ 4 * b.wj.toNat + 4 := by
  unfold burstWords at h; omega

theorem burstMoved_packing {b : Block} (hd : b.wDir = .send) (hw : b.wte = .b5Words) : burstMoved b = packed b := by
  simp [burstMoved, hd, hw]

theorem burstMoved_unpacking {b : Block} (hd : b.wDir = .receive) (hw : b.wte = .b7Rx) :
    burstMoved b = unpacked b := by
  simp [burstMoved, hd, hw]

/-- Once byte k of a word in B5 is done, the call is at the byte after it, or at the end of the burst. -/
theorem callMoved_of_packed {b : Block} {k : Fin 4} {l : Word} (hd : b.wDir = .send) (hw : b.wte = .b5Words) :
    callMoved (byteDone k { b with latch := l, phase := .last } { b with latch := l })
      = b.wOff.toNat + min b.blen.toNat (burstPos b k + 1) := by
  rcases byteDone_cases k { b with latch := l, phase := .last } { b with latch := l } with ⟨_, he⟩ | ⟨hk, he⟩ <;> rw [he]
  · simp [callMoved, burstMoved, packed, burstPos, hd, hw, Nat.add_assoc]
  · simp [callMoved, burstMoved, packed, burstPos, hd, hw, hk, Nat.add_assoc]

/-- Byte k of a word in B5 is packed. -/
theorem callStep_packs {b : Block} {k : Fin 4} {es : List Event} {v : Byte} (hd : b.wDir = .send)
    (hw : b.wte = .b5Words) (hp : b.phase = .byte k) (hv : PackedByte b k es v) :
    CallStep b es (byteDone k { b with latch := setByte b.latch k v, phase := .last }
      { b with latch := setByte b.latch k v }) := by
  have hcall : callMoved b = b.wOff.toNat + min b.blen.toNat (burstPos b k) := by
    simp [callMoved, burstMoved_packing hd hw, packed, hw, hp]
  have hmoved := callMoved_of_packed (k := k) (l := setByte b.latch k v) hd hw
  obtain ⟨p, he⟩ := byteDone_last k { b with latch := setByte b.latch k v }
  have hcfl := congrArg Block.cfl he
  cases hv with
  | ofBuffer v hx hs =>
    refine .goesOn 1 (.read hd ?_ rfl) (fun h => absurd hs h) (fun _ => ?_) hcfl
    · rw [hcall, Nat.min_eq_right hx.le]; rfl
    · rw [hmoved, hcall]; omega
  | ofStore v hx hs =>
    have hne : b.wSrc ≠ .buf := by rcases hs with ⟨hs, -⟩ | ⟨hs, -⟩ | ⟨hs, -⟩ <;> simp [hs]
    exact .goesOn 0 (.none rfl rfl) (fun _ => rfl) (fun h => absurd h hne) hcfl
  | pastBurst hx => exact .goesOn 0 (.none rfl rfl) (fun _ => rfl) (fun _ => by rw [hmoved, hcall]; omega) hcfl

/-- Once byte k of a word in B7 is done, the call is at the byte after it, or at the end of the burst. -/
theorem callMoved_of_unpacked {b : Block} {k : Fin 4} {r : Byte} (h : BlockOk b) (hd : b.wDir = .receive)
    (hw : b.wte = .b7Rx) :
    (byteDone k (wordDone .next { b with resp := r }) { b with resp := r }).cfl = b.cfl
      ∧ callMoved (byteDone k (wordDone .next { b with resp := r }) { b with resp := r })
        = b.wOff.toNat + min b.blen.toNat (burstPos b k + 1) := by
  obtain ⟨⟨-, hmax, -⟩, hj⟩ := h.burst (.inr hw)
  have hsucc := toNat_wj_succ hmax hj
  rcases byteDone_cases k (wordDone .next { b with resp := r }) { b with resp := r } with ⟨_, he⟩ | ⟨hk, he⟩ <;> rw [he]
  · exact ⟨rfl, by simp [callMoved, burstMoved, unpacked, burstPos, hd, hw, Nat.add_assoc]⟩
  · rcases wordDone_cases .next { b with resp := r } with ⟨_, he⟩ | ⟨hall, he⟩ <;> rw [he]
    · refine ⟨rfl, ?_⟩
      simp only [callMoved, burstMoved, unpacked, burstPos, hd, hw, hk, hsucc]
      simp [Nat.mul_add]
    · refine ⟨rfl, ?_⟩
      have hle := blen_le_of_words_done (b := b) (by rw [← hsucc]; exact hall)
      simp only [callMoved, burstMoved, burstPos, hd, hk]
      simp; omega

/-- Byte k of a word in B7 is stored. -/
theorem callStep_stores {b : Block} {k : Fin 4} {es : List Event} {r : Byte} (h : BlockOk b) (hd : b.wDir = .receive)
    (hw : b.wte = .b7Rx) (hp : b.phase = .byte k) (hr : StoredByte b k es r) :
    CallStep b es (byteDone k (wordDone .next { b with resp := r }) { b with resp := r }) := by
  have hcall : callMoved b = b.wOff.toNat + min b.blen.toNat (burstPos b k) := by
    simp [callMoved, burstMoved_unpacking hd hw, unpacked, hw, hp]
  obtain ⟨hcfl, hmoved⟩ := callMoved_of_unpacked (k := k) (r := r) h hd hw
  cases hr with
  | toBuffer hx hs =>
    refine .goesOn 1 (.write hd rfl ?_) (fun h => absurd hs h) (fun _ => ?_) hcfl
    · rw [hcall, Nat.min_eq_right hx.le]; rfl
    · rw [hmoved, hcall]; omega
  | toResp hx hs => exact .goesOn 0 (.none rfl rfl) (fun _ => rfl) (fun h => by simp [hs] at h) hcfl
  | pastBurst hx => exact .goesOn 0 (.none rfl rfl) (fun _ => rfl) (fun _ => by rw [hmoved, hcall]; omega) hcfl

/-- A word of B5 is written: its bytes were packed before. -/
theorem callStep_txdWritten {b : Block} (h : BlockOk b) (hw : b.wte = .b5Words) (hp : b.phase = .last) :
    CallStep b [.mmioWrite .txd b.latch] (wordDone .b6TrigOn b) := by
  obtain ⟨⟨-, hmax, -⟩, hj⟩ := h.burst (.inl hw)
  have hsucc := toNat_wj_succ hmax hj
  rcases wordDone_cases .b6TrigOn b with ⟨_, he⟩ | ⟨hall, he⟩ <;> rw [he]
  · refine .quiet rfl rfl rfl (by simp [hw]) (by simp [hw]) rfl ?_
    cases hd : b.wDir with
    | send =>
      simp only [burstMoved, packed, burstPos, hd, hw, hp, hsucc]
      simp [Nat.mul_add]
    | receive => simp [burstMoved, hd, hw]
  · refine .quiet rfl rfl rfl (by simp [hw]) (by simp) rfl ?_
    have hle := blen_le_of_words_done (b := b) (by rw [← hsucc]; exact hall)
    cases hd : b.wDir with
    | send => simp [burstMoved, packed, burstPos, hd, hw, hp]; omega
    | receive => simp [burstMoved, hd, hw]

/-- A word of B7 that a send discards. -/
theorem callStep_rxdDiscarded {b : Block} {w : Word} (hw : b.wte = .b7Rx) (hd : b.wDir = .send) :
    CallStep b [.mmioRead .rxd w] (wordDone .next b) := by
  rcases wordDone_cases .next b with ⟨_, he⟩ | ⟨_, he⟩ <;> rw [he]
  · exact .quiet rfl rfl rfl (by simp [hw]) (by simp [hw]) rfl (by simp [burstMoved, hd, hw])
  · exact .quiet rfl rfl rfl (by simp [hw]) (by simp) rfl (by simp [burstMoved, hd, hw])

/-- Every move of a running call. -/
theorem WteMove.callStep {b b' : Block} {es : List Event} (hm : WteMove b es b') (h : BlockOk b) (hp : PhaseOk b)
    (hn : b.wte ≠ .none) : CallStep b es b' := by
  cases hm with
  | callReturns hw he => exact .returns rfl (by simp [callMoved, burstMoved, hw, he]) rfl
  | burstBegins hw hne => exact .quiet rfl rfl rfl hn (by simp) rfl (by simp [burstMoved, hw])
  | ctlRead v hw =>
    refine .quiet rfl rfl rfl hn hn rfl ?_
    rcases hw with hw | hw | hw <;> cases hd : b.wDir <;> simp [burstMoved, hd, hw]
  | trigOff v hw => exact .quiet rfl rfl rfl hn (by simp) rfl (by simp [burstMoved, hw])
  | drainGoesOn v p hw => exact .quiet rfl rfl rfl hn hn rfl (by simp [burstMoved, hw])
  | drainTakes w hw => exact .quiet rfl rfl rfl hn hn rfl (by simp [burstMoved, hw])
  | drainEnds v hw => exact .quiet rfl rfl rfl hn (by simp) rfl (by simp [burstMoved, hw])
  | waitGoesOn v p hw =>
    refine .quiet rfl rfl rfl hn hn rfl ?_
    rcases hw with hw | ⟨hw | hw, hp, rfl | rfl⟩ <;> simp [burstMoved, packed, unpacked, burstPos, *]
  | txeHolds v hw => exact .quiet rfl rfl rfl hn (by simp) rfl (by simp [burstMoved, hw])
  | flSet v hw =>
    refine .quiet rfl rfl rfl hn (by simp) rfl ?_
    cases hd : b.wDir <;> simp [burstMoved, packed, burstPos, hd, hw]
  | dummyWordBegins v hw hp hd => exact .quiet rfl rfl rfl hn hn rfl (by simp [burstMoved, hd, hw])
  | sendWordBegins v hw hp hd =>
    exact .quiet rfl rfl rfl hn hn rfl (by simp [burstMoved, packed, burstPos, hd, hw, hp])
  | packs k es v hw hp' hv => exact callStep_packs (hp.1 k hw hp') hw hp' hv
  | txdWritten hw hp' => exact callStep_txdWritten h hw hp'
  | trigOn v hw =>
    refine .quiet rfl rfl rfl hn (by simp) rfl ?_
    cases hd : b.wDir <;> simp [burstMoved, unpacked, burstPos, hd, hw]
  | rxeHolds v hw hp' =>
    refine .quiet rfl rfl rfl hn hn rfl ?_
    cases hd : b.wDir <;> simp [burstMoved, unpacked, burstPos, hd, hw, hp']
  | rxdDiscarded w hw hp' hd => exact callStep_rxdDiscarded hw hd
  | rxdTaken w hw hp' hd =>
    exact .quiet rfl rfl rfl hn hn rfl (by simp [burstMoved, unpacked, burstPos, hd, hw, hp'])
  | stores k es r hw hp' hr => exact callStep_stores h (hp.2 k hw hp') hw hp' hr
  | burstEnds hw =>
    obtain ⟨⟨-, hmax, hle⟩, -⟩ := (burstOk_iff hn (by simp [hw])).mp h.burstOk
    refine .goesOn 0 (.none rfl rfl) (fun _ => rfl) (fun _ => ?_) rfl
    have hoff : (b.wOff + b.blen.setWidth 32).toNat = b.wOff.toNat + b.blen.toNat := by
      rw [BitVec.toNat_add, BitVec.toNat_setWidth]; omega
    cases hd : b.wDir <;> simp only [callMoved, burstMoved, hw, hd, hoff] <;> simp
  | givesUp => exact .givesUp rfl rfl

/-! ### The request -/

/-- The op codes of the requests that read their buffer, SEND and CMD53W (R81). -/
def SendsBuffer (op : BitVec 3) : Prop := op = 0b000#3 ∨ op = 0b100#3

/-- The op codes of the requests that write their buffer, RECV and CMD53R (R81). -/
def ReceivesBuffer (op : BitVec 3) : Prop := op = 0b001#3 ∨ op = 0b011#3

theorem burstMoved_le {b : Block} : burstMoved b ≤ b.blen.toNat := by
  unfold burstMoved packed unpacked
  split <;> omega

/-- A call never moves more bytes than it has. -/
theorem BlockOk.callMoved_le {b : Block} (h : BlockOk b) (hn : b.wte ≠ .none) : callMoved b ≤ b.wSize.toNat := by
  rw [callMoved, if_neg hn]
  by_cases ht : b.wte = .top
  · have hle := h.burstOk
    have h0 : burstMoved b = 0 := by simp [burstMoved, ht]
    simp only [Machine.burstOk, ht] at hle
    omega
  · obtain ⟨⟨-, -, hle⟩, -⟩ := (burstOk_iff hn ht).mp h.burstOk
    have hmoved := burstMoved_le (b := b)
    omega

theorem toNat_chunk (b : Block) : (b.chunk.setWidth 32 : Word).toNat = b.chunk.toNat := by
  rw [BitVec.toNat_setWidth]; omega

/-- A buffer the block runs ends inside the space (R61). -/
theorem toNat_add_le_of_not_badBuffer {buf size : Word} (h : badBuffer buf size = false) (hs : size ≠ 0) :
    buf.toNat + size.toNat ≤ 2 ^ 32 := by
  simp only [badBuffer, hs, ne_eq, not_false_eq_true, decide_true, Bool.true_and, Bool.or_eq_false_iff,
    decide_eq_false_iff_not, not_lt] at h
  exact h.2

/-- What the invariant says of the payload call of a CMD53: it lies inside the buffer, so its base does not wrap
(R61, R150). -/
theorem BlockOk.payload {b : Block} (h : BlockOk b) (hc : b.cfl = .c53Pay) :
    b.cur.toNat + b.chunk.toNat ≤ b.size.toNat ∧ (b.buf + b.cur).toNat = b.buf.toNat + b.cur.toNat := by
  have hreq := h.requestOk
  have hchunk := h.chunkOk
  simp only [Machine.requestOk, Machine.chunkOk, hc] at hreq hchunk
  obtain ⟨-, hbad⟩ := hreq
  obtain ⟨hsum, hpos, -, hle⟩ := hchunk
  have hsize : b.size ≠ 0 := fun e => by rw [e] at hsum; simp at hsum; omega
  have hin := toNat_add_le_of_not_badBuffer hbad hsize
  refine ⟨by omega, ?_⟩
  rw [BitVec.toNat_add, Nat.mod_eq_of_lt]
  omega

/-- A request never moves more bytes than its buffer has. -/
theorem BlockOk.bufferMoved_le {b : Block} (h : BlockOk b) : bufferMoved b ≤ b.size.toNat := by
  have hcall : b.wte = .none ∨ callMoved b ≤ b.wSize.toNat ∧ Machine.callOk b := by
    by_cases hn : b.wte = .none
    · exact .inl hn
    · exact .inr ⟨h.callMoved_le hn, h.callOk hn⟩
  have hnone : b.wte = .none → callMoved b = 0 := fun hn => by simp [callMoved, hn]
  have hchunk := h.chunkOk
  cases hc : b.cfl with
  | sendTop =>
    simp only [bufferMoved, hc]
    rcases hcall with hn | ⟨hle, hcall⟩
    · rw [hnone hn]; exact Nat.zero_le _
    · simp only [Machine.callOk, hc] at hcall
      rw [← hcall.2.2.2]; exact hle
  | recvTop =>
    simp only [bufferMoved, hc]
    rcases hcall with hn | ⟨hle, hcall⟩
    · rw [hnone hn]; exact Nat.zero_le _
    · simp only [Machine.callOk, hc] at hcall
      rw [← hcall.2.2.2]; exact hle
  | c53Pay =>
    simp only [bufferMoved, hc]
    have hpay := (h.payload hc).1
    rcases hcall with hn | ⟨hle, hcall⟩
    · rw [hnone hn]; omega
    · simp only [Machine.callOk, hc] at hcall
      rw [hcall.2.2.2, toNat_chunk] at hle
      omega
  | finish => simp [bufferMoved, hc]
  | _ =>
    simp only [bufferMoved, hc, Machine.chunkOk] at hchunk ⊢
    omega

/-- A call on the buffer is made for its request, in its direction, and from the byte the request has come to
(R125, R128, R151). -/
theorem BlockOk.bufferCall {b : Block} (h : BlockOk b) (hn : b.wte ≠ .none) (hs : b.wSrc = .buf) :
    (b.wDir = .send → SendsBuffer b.op) ∧ (b.wDir = .receive → ReceivesBuffer b.op)
      ∧ b.wBase.toNat + callMoved b = b.buf.toNat + bufferMoved b
      ∧ (b.cfl = .sendTop ∨ b.cfl = .recvTop ∨ b.cfl = .c53Pay) := by
  have hcall := h.callOk hn
  have hreq := h.requestOk
  cases hc : b.cfl with
  | sendTop =>
    simp only [Machine.callOk, Machine.requestOk, hc] at hcall hreq
    exact ⟨fun _ => .inl hreq.1, fun hd => by simp [hd] at hcall, by simp [bufferMoved, hc, hcall], by simp⟩
  | recvTop =>
    simp only [Machine.callOk, Machine.requestOk, hc] at hcall hreq
    exact ⟨fun hd => by simp [hd] at hcall, fun _ => .inl hreq.1, by simp [bufferMoved, hc, hcall], by simp⟩
  | c53Pay =>
    have hwrap := (h.payload hc).2
    simp only [Machine.callOk, Machine.requestOk, hc, isRead] at hcall hreq
    obtain ⟨hd, -, hbase, -⟩ := hcall
    refine ⟨fun hd' => ?_, fun hd' => ?_, ?_, by simp⟩
    · rcases hreq.1 with hop | hop
      · simp [hop, hd'] at hd
      · exact .inr hop
    · rcases hreq.1 with hop | hop
      · exact .inr hop
      · simp [hop, hd'] at hd
    · rw [hbase, hwrap, bufferMoved, hc]
      exact Nat.add_assoc _ _ _
  | _ => simp [Machine.callOk, hc, hs] at hcall

/-- What a move does to the Transfer Buffer: it accesses at most one byte of it, and that is the next one; when it ends
the request OK, all the bytes have been accessed. -/
structure BufferStep (b : Block) (es : List Event) (b' : Block) (n : Nat) : Prop where
  access : BufferAccess (SendsBuffer b.op) (ReceivesBuffer b.op) (b.buf.toNat + bufferMoved b) es n
  goesOn : b'.cfl ≠ .idle → bufferMoved b' = bufferMoved b + n
  ends : b'.cfl = .idle → n = 0 ∧ (b'.status = .ok → SendsBuffer b.op ∨ ReceivesBuffer b.op →
    bufferMoved b = b.size.toNat)

/-- A move that accesses no byte and does not end the request. -/
theorem BufferStep.quiet {b b' : Block} {es : List Event} (hr : es.filterMap Event.readAddr? = [])
    (hw : es.filterMap Event.writeAddr? = []) (hc : b'.cfl ≠ .idle) (hmoved : bufferMoved b' = bufferMoved b) :
    BufferStep b es b' 0 :=
  ⟨.none hr hw, fun _ => hmoved, fun h => absurd h hc⟩

theorem CflMove.bufferStep {b b' : Block} {es : List Event} (hm : CflMove b es b') (h : BlockOk b)
    (hn : b.wte = .none) : BufferStep b es b' 0 := by
  have hreq := h.requestOk
  have hchunk := h.chunkOk
  cases hm with
  | ends st he =>
    refine ⟨.none rfl rfl, fun hi => absurd rfl hi, fun _ => ⟨rfl, fun hst hop => ?_⟩⟩
    rcases he with ⟨-, rfl⟩ | ⟨hc, -⟩ | ⟨hc, -⟩
    · cases hst
    · simp only [Machine.requestOk, hc] at hreq
      rcases hop with (hop | hop) | (hop | hop) <;> simp [hop] at hreq
    · simp [bufferMoved, hc]
  | bufferChecked c hc hb hop =>
    rcases hop with ⟨-, rfl⟩ | ⟨-, rfl⟩ <;> exact .quiet rfl rfl (by simp) (by simp [bufferMoved, callMoved, hc, hn])
  | cmd0Checked hc => exact .quiet rfl rfl (by simp) (by simp [bufferMoved, hc])
  | cmd53Checked hc => exact .quiet rfl rfl (by simp) (by simp [bufferMoved, hc])
  | calls d w base n hcall =>
    refine .quiet rfl rfl (fun hi => ?_) ?_
    · have hidle : b.cfl = .idle := hi
      simp [Machine.callOk, hidle] at hcall
    · simp only [bufferMoved, callMoved, burstMoved, hn]
      simp
  | chunkBegins hc => exact .quiet rfl rfl (by simp) (by simp [bufferMoved, hc])
  | noChunkLeft hc he =>
    simp only [Machine.chunkOk, hc, he] at hchunk
    exact .quiet rfl rfl (by simp) (by simp only [bufferMoved, hc]; simpa using hchunk.symm)
  | chunkEnds hc =>
    simp only [Machine.chunkOk, hc] at hchunk
    refine .quiet rfl rfl (by simp) ?_
    simp only [bufferMoved, hc]
    rw [BitVec.toNat_add, toNat_chunk]
    omega

/-- A call that returns leaves the request where it is in the buffer. -/
theorem bufferMoved_of_returns {b : Block} (h : BlockOk b) (hn : b.wte ≠ .none) (hall : callMoved b = b.wSize.toNat) :
    bufferMoved { b with wte := .none, cfl := afterCall b.cfl } = bufferMoved b := by
  have hcall := h.callOk hn
  cases hc : b.cfl <;> simp only [Machine.callOk, hc] at hcall
  case c53Pay =>
    simp only [bufferMoved, hc, afterCall]
    rw [hall, hcall.2.2.2, toNat_chunk]
  all_goals simp_all [bufferMoved, callMoved, afterCall]

/-- A move inside a call on another store leaves the request where it is in the buffer. -/
theorem bufferMoved_of_other {b b' : Block} (h : BlockOk b) (hn : b.wte ≠ .none) (hs : b.wSrc ≠ .buf)
    (hk : WteKeeps b b') (hc : b'.cfl = b.cfl) : bufferMoved b' = bufferMoved b := by
  have hcall := h.callOk hn
  unfold bufferMoved
  rw [hc, hk.cur, hk.chunk]
  cases hc : b.cfl <;> simp_all [Machine.callOk]

/-- A move inside a call on the buffer takes the request as far as the call. -/
theorem bufferMoved_of_buffer {b b' : Block} {n : Nat} (hk : WteKeeps b b') (hc : b'.cfl = b.cfl)
    (hon : b.cfl = .sendTop ∨ b.cfl = .recvTop ∨ b.cfl = .c53Pay) (hmoved : callMoved b' = callMoved b + n) :
    bufferMoved b' = bufferMoved b + n := by
  unfold bufferMoved
  rw [hc, hk.cur, hmoved]
  rcases hon with hon | hon | hon <;> rw [hon]
  exact (Nat.add_assoc _ _ _).symm

theorem WteMove.bufferStep {b b' : Block} {es : List Event} (hm : WteMove b es b') (h : BlockOk b) (hp : PhaseOk b)
    (hn : b.wte ≠ .none) (hb : b.cfl ≠ .idle) : ∃ n, BufferStep b es b' n := by
  have hk := hm.keeps
  cases hm.callStep h hp hn with
  | goesOn n hacc hsrc hmoved hcfl =>
    refine ⟨n, ?_⟩
    by_cases hs : b.wSrc = .buf
    · obtain ⟨hsend, hrecv, haddr, hon⟩ := h.bufferCall hn hs
      exact ⟨hacc.imp hsend hrecv haddr, fun _ => bufferMoved_of_buffer hk hcfl hon (hmoved hs),
        fun hi => absurd (hcfl.symm.trans hi) hb⟩
    · obtain rfl := hsrc hs
      cases hacc with
      | none hr hw => exact .quiet hr hw (by rw [hcfl]; exact hb) (bufferMoved_of_other h hn hs hk hcfl)
  | returns hes hall hb' =>
    subst hes hb'
    refine ⟨0, .quiet rfl rfl ?_ (bufferMoved_of_returns h hn hall)⟩
    have hcall := h.callOk hn
    cases hc : b.cfl <;> simp_all [Machine.callOk, afterCall]
  | givesUp hes hb' =>
    subst hes hb'
    exact ⟨0, .none rfl rfl, fun hi => absurd rfl hi, fun _ => ⟨rfl, fun hst => by cases hst⟩⟩

/-- Every move of a busy block accesses the next byte of the buffer, or none. -/
theorem BlockMove.bufferStep {b b' : Block} {es : List Event} (hm : BlockMove b es b') (h : BlockOk b) (hp : PhaseOk b)
    (hb : b.cfl ≠ .idle) : ∃ n, BufferStep b es b' n := by
  rcases hm with ⟨hn, hm⟩ | ⟨hn, hm⟩
  · exact ⟨0, hm.bufferStep h hn⟩
  · exact hm.bufferStep h hp hn hb

/-- The first k addresses of the Transfer Buffer (R51, R60). -/
def bufferAddrs (buf : Word) (k : Nat) : List Nat := (List.range k).map fun j => buf.toNat + j

theorem bufferAddrs_succ (buf : Word) (k : Nat) : bufferAddrs buf (k + 1) = bufferAddrs buf k ++ [buf.toNat + k] := by
  simp [bufferAddrs, List.range_succ]

/-- The buffer accesses of a request i so far, from the state s it was made in: the first k bytes in order, read by a
sending request and written by a receiving one. -/
structure BufferAccesses (i : Instr) (s t : State) (k : Nat) : Prop where
  inside : k ≤ i.size.toNat
  sends : SendsBuffer i.op → t.readAddrs = s.readAddrs ++ bufferAddrs i.buf k ∧ t.writeAddrs = s.writeAddrs
  receives : ReceivesBuffer i.op → t.writeAddrs = s.writeAddrs ++ bufferAddrs i.buf k ∧ t.readAddrs = s.readAddrs
  neither : ¬ SendsBuffer i.op → ¬ ReceivesBuffer i.op → t.readAddrs = s.readAddrs ∧ t.writeAddrs = s.writeAddrs
  ended : t.busy = false → t.block.status = .ok → SendsBuffer i.op ∨ ReceivesBuffer i.op → k = i.size.toNat

/-- What every tick of a request keeps, for its accesses to come out in order. -/
structure BufferRun (i : Instr) (s t : State) : Prop where
  ok : BlockOk t.block
  phase : PhaseOk t.block
  op : t.block.op = i.op
  buf : t.block.buf = i.buf
  size : t.block.size = i.size
  accesses : ∃ k, BufferAccesses i s t k ∧ (t.busy = true → k = bufferMoved t.block)

theorem not_sends_and_receives {op : BitVec 3} (h : SendsBuffer op) (h' : ReceivesBuffer op) : False := by
  rcases h with rfl | rfl <;> rcases h' with h' | h' <;> cases h'

/-- The accesses of a request after one more move. -/
theorem BufferRun.act {i : Instr} {s u v : State} (h : BufferRun i s u) (hb : u.busy = true) (hv : act u = .next v) :
    BufferRun i s v := by
  obtain ⟨es, hm, htrace, -⟩ := act_acts hb hv
  obtain ⟨n, hstep⟩ := hm.bufferStep h.ok h.phase ((State.busy_iff u).mp hb)
  obtain ⟨k, hacc, hk⟩ := h.accesses
  obtain rfl := hk hb
  have hr : v.readAddrs = u.readAddrs ++ es.filterMap Event.readAddr? := by
    rw [State.readAddrs, htrace, List.filterMap_append]; rfl
  have hw : v.writeAddrs = u.writeAddrs ++ es.filterMap Event.writeAddr? := by
    rw [State.writeAddrs, htrace, List.filterMap_append]; rfl
  have honly := act_actOnly hv
  have hok := hm.keeps_ok h.ok
  have hend : v.busy = false → n = 0 ∧ (v.block.status = .ok → SendsBuffer i.op ∨ ReceivesBuffer i.op →
      bufferMoved u.block = i.size.toNat) := by
    rw [State.busy_false_iff, ← h.op, ← h.size]; exact hstep.ends
  have hgo : v.busy = true → bufferMoved v.block = bufferMoved u.block + n := by
    rw [State.busy_iff]; exact hstep.goesOn
  have hsize : v.block.size = i.size := honly.size.trans h.size
  have hin : bufferMoved u.block + n ≤ i.size.toNat := by
    cases hbv : v.busy with
    | true => rw [← hgo hbv, ← hsize]; exact hok.bufferMoved_le
    | false => rw [(hend hbv).1]; exact hacc.inside
  refine ⟨hok, hm.keeps_phaseOk h.phase, honly.op.trans h.op, honly.buf.trans h.buf, hsize,
    bufferMoved u.block + n, ⟨hin, ?_, ?_, ?_, ?_⟩, fun hbv => (hgo hbv).symm⟩
  · intro hsend
    obtain ⟨h1, h2⟩ := hacc.sends hsend
    rw [hr, hw, h1, h2]
    cases hstep.access with
    | none k1 k2 => simp [k1, k2]
    | read _ k1 k2 => simp [k1, k2, bufferAddrs_succ, h.buf]
    | write hop => rw [h.op] at hop; exact (not_sends_and_receives hsend hop).elim
  · intro hrecv
    obtain ⟨h1, h2⟩ := hacc.receives hrecv
    rw [hr, hw, h1, h2]
    cases hstep.access with
    | none k1 k2 => simp [k1, k2]
    | read hop => rw [h.op] at hop; exact (not_sends_and_receives hop hrecv).elim
    | write _ k1 k2 => simp [k1, k2, bufferAddrs_succ, h.buf]
  · intro hsend hrecv
    obtain ⟨h1, h2⟩ := hacc.neither hsend hrecv
    rw [hr, hw, h1, h2]
    cases hstep.access with
    | none k1 k2 => simp [k1, k2]
    | read hop => rw [h.op] at hop; exact absurd hop hsend
    | write hop => rw [h.op] at hop; exact absurd hop hrecv
  · intro hbv hst hop
    obtain ⟨rfl, hall⟩ := hend hbv
    exact hall hst hop

/-- Every request accesses its buffer in order. -/
theorem exec_bufferAccesses {i : Instr} {s t : State} (hb : s.busy = false) (hr : s.env.resets = [])
    (h : exec i s = .next t) : ∃ k, BufferAccesses i s t k := by
  have hrun : BufferRun i s t := by
    refine exec_keeps (BufferRun i s) hb hr h ?_ ?_ fun u v hu hbu hv => hu.act hbu hv
    · refine ⟨blockOk_accept _ _ _ _, phaseOk_of_no_byte (by simp), by simp, by simp, by simp, 0, ?_,
        by simp [bufferMoved]⟩
      exact ⟨Nat.zero_le _, by simp [State.readAddrs, State.writeAddrs, bufferAddrs],
        by simp [State.readAddrs, State.writeAddrs, bufferAddrs], by simp [State.readAddrs, State.writeAddrs], by simp⟩
    · rintro u v ⟨h1, h2, h3, h4, h5, k, hacc, hk⟩ hv
      have hread : v.readAddrs = u.readAddrs := hv.filterMap_trace fun _ _ => rfl
      have hwrite : v.writeAddrs = u.writeAddrs := hv.filterMap_trace fun _ _ => rfl
      have hbusy : v.busy = u.busy := by rw [State.busy, hv.block]; rfl
      refine ⟨hv.block ▸ h1, hv.block ▸ h2, hv.block ▸ h3, hv.block ▸ h4, hv.block ▸ h5, k, ?_, ?_⟩
      · exact ⟨hacc.inside, hread ▸ hwrite ▸ hacc.sends, hread ▸ hwrite ▸ hacc.receives, hread ▸ hwrite ▸ hacc.neither,
          by rw [hbusy, hv.block]; exact hacc.ended⟩
      · rw [hbusy, hv.block]; exact hk
  obtain ⟨k, hacc, -⟩ := hrun.accesses
  exact ⟨k, hacc⟩

/-- Settles O37: both are sending requests. -/
theorem sendingRequestsReadTheBufferInOrder : Obligations.SendingRequestsReadTheBufferInOrder := by
  intro i s t buf size hi hb hr h
  obtain ⟨k, hacc⟩ := exec_bufferAccesses hb hr h
  have hop : SendsBuffer i.op := by rcases hi with rfl | rfl <;> simp [SendsBuffer, Instr.op]
  have hbuf : i.buf = buf ∧ i.size = size := by rcases hi with rfl | rfl <;> exact ⟨rfl, rfl⟩
  obtain ⟨h1, h2⟩ := hacc.sends hop
  rw [← hbuf.1, ← hbuf.2]
  exact ⟨k, hacc.inside, h1, h2, fun hbt hst => hacc.ended hbt hst (.inl hop)⟩

/-- Settles O38: two receiving requests, and four that are neither. -/
theorem receivingRequestsWriteTheBufferInOrder : Obligations.ReceivingRequestsWriteTheBufferInOrder := by
  intro i s t buf size hb hr h
  obtain ⟨k, hacc⟩ := exec_bufferAccesses hb hr h
  constructor
  · intro hi
    have hop : ReceivesBuffer i.op := by rcases hi with rfl | rfl <;> simp [ReceivesBuffer, Instr.op]
    have hbuf : i.buf = buf ∧ i.size = size := by rcases hi with rfl | rfl <;> exact ⟨rfl, rfl⟩
    obtain ⟨h1, h2⟩ := hacc.receives hop
    rw [← hbuf.1, ← hbuf.2]
    exact ⟨k, hacc.inside, h1, h2, fun hbt hst => hacc.ended hbt hst (.inr hop)⟩
  · intro hi
    have hop : ¬ SendsBuffer i.op ∧ ¬ ReceivesBuffer i.op := by
      rcases hi with rfl | rfl | rfl | rfl <;> simp [SendsBuffer, ReceivesBuffer, Instr.op]
    exact (hacc.neither hop.1 hop.2).symm

end Sys2Proof.Machine

namespace Sys2Proof.Machine

/-! ## Every step keeps the invariant -/

/-- A frame in progress has bytes left, at most 256 in all (R45). -/
def FrameOk (f : Frame) : Prop := f.i < f.n ∧ f.n ≤ 256

/-- The part of the invariant that speaks of the configuration, buffer memory and the peripheral. -/
structure PlantOk (s : State) : Prop where
  cfgWf : s.cfg.wf = true
  memWf : s.mem.wf = true
  txFits : s.periph.tx.length ≤ s.cfg.txDepth
  rxFits : s.periph.rx.length ≤ s.cfg.rxDepth
  ctlClear : s.periph.ctl &&& clearMask s.cfg = 0
  frameOk : ∀ f, s.periph.frame = some f → FrameOk f

theorem inv_iff (s : State) : s.Inv ↔ PlantOk s ∧ BlockOk s.block :=
  ⟨fun ⟨h1, h2, h3, h4, h5, h6, h7, h8, h9, h10⟩ => ⟨⟨h1, h2, h3, h4, h5, h6⟩, ⟨h7, h8, h9, h10⟩⟩,
    fun ⟨⟨h1, h2, h3, h4, h5, h6⟩, ⟨h7, h8, h9, h10⟩⟩ => ⟨h1, h2, h3, h4, h5, h6, h7, h8, h9, h10⟩⟩

/-- The plant's part looks at nothing else. -/
theorem PlantOk.congr {s t : State} (h : PlantOk s) (hc : t.cfg = s.cfg) (hm : t.mem = s.mem)
    (hp : t.periph = s.periph) : PlantOk t := by
  obtain ⟨h1, h2, h3, h4, h5, h6⟩ := h
  constructor <;> simp only [hc, hm, hp] <;> assumption

/-! ### The peripheral's steps -/

theorem SameButTapes.keeps_plantOk {s t : State} (k : SameButTapes s t) (h : PlantOk s) : PlantOk t :=
  h.congr k.cfg k.mem k.periph

theorem setFrame_plantOk {f : Option Frame} {s : State} (h : PlantOk s) (hf : ∀ g, f = some g → FrameOk g) :
    PlantOk (setFrame f s) :=
  ⟨h.cfgWf, h.memWf, h.txFits, h.rxFits, h.ctlClear, hf⟩

/-- The end of a FIFO word takes one TX word, and appends one RX word where there is room. -/
theorem frameWordDone_plantOk {a : Word} {s t : State} (h : PlantOk s) (hd : frameWordDone a s = .next t) :
    PlantOk t := by
  obtain ⟨hroom, rfl⟩ := frameWordDone_next hd
  refine ⟨h.cfgWf, h.memWf, ?_, ?_, h.ctlClear, h.frameOk⟩
  · have htx := h.txFits
    simp; omega
  · simpa using hroom

theorem frameExchange_plantOk {f : Frame} {s t : State} (h : PlantOk s) (hf : FrameOk f)
    (he : frameExchange f s = .next t) : PlantOk t := by
  have h1 : ∀ e, PlantOk ((exchange (byteOf f.word (f.i % 4)) s).2.log e) := fun e =>
    ((exchange_same (byteOf f.word (f.i % 4)) s).keeps_plantOk h).congr rfl rfl rfl
  simp only [frameExchange] at he
  split at he
  · obtain ⟨u, hu, hn⟩ := andThen_eq_next.mp he
    cases hn
    exact setFrame_plantOk (frameWordDone_plantOk (h1 _) hu) (by simp)
  · rename_i hlast
    have hnext : ∀ rx, FrameOk { f with i := f.i + 1, rx := rx } := fun rx => by
      obtain ⟨h1, h2⟩ := hf
      exact ⟨by simp only; omega, h2⟩
    split at he
    · obtain ⟨u, hu, hn⟩ := andThen_eq_next.mp he
      cases hn
      exact setFrame_plantOk (frameWordDone_plantOk (h1 _) hu) (by rintro g ⟨⟩; exact hnext _)
    · cases he
      exact setFrame_plantOk (h1 _) (by rintro g ⟨⟩; exact hnext _)

theorem frameByte_plantOk {f : Frame} {s t : State} (h : PlantOk s) (hf : FrameOk f) (hb : frameByte f s = .next t) :
    PlantOk t := by
  unfold frameByte at hb
  split at hb
  · split at hb
    · cases hb; exact h
    · refine frameExchange_plantOk ((drawPad_same s).keeps_plantOk h) ?_ hb
      exact hf
  · exact frameExchange_plantOk h hf hb

theorem periphRun_plantOk {k : Nat} : ∀ {s t : State}, PlantOk s → periphRun k s = .next t → PlantOk t := by
  induction k with
  | zero => intro s t h hr; cases hr; exact h
  | succ k ih =>
    intro s t h hr
    unfold periphRun at hr
    split at hr
    · cases hr; exact h
    · rename_i f hf
      obtain ⟨u, hu, hn⟩ := andThen_eq_next.mp hr
      exact ih (frameByte_plantOk h (h.frameOk f hf) hu) hn

theorem breathe_plantOk {s t : State} (h : PlantOk s) (hb : breathe s = .next t) : PlantOk t := by
  unfold breathe at hb
  split at hb
  · cases hb; exact h
  · exact periphRun_plantOk ((drawSched_same s).keeps_plantOk h) hb

/-- The peripheral's share keeps the invariant. -/
theorem breathe_inv {s t : State} (h : s.Inv) (hb : breathe s = .next t) : t.Inv := by
  obtain ⟨hp, hok⟩ := (inv_iff s).mp h
  exact (inv_iff t).mpr ⟨breathe_plantOk hp hb, by rw [(breathe_periphOnly hb).block]; exact hok⟩

/-! ### The accesses -/

/-- What frame can run after a CTL write: the one before, none, or the one the write starts (R45). -/
theorem writeCtl_frame_cases (v : Word) (s : State) :
    (writeCtl v s).periph.frame = s.periph.frame ∨ (writeCtl v s).periph.frame = none
      ∨ (writeCtl v s).periph.frame = some (newFrame v) := by
  unfold writeCtl writeCtlEffect
  split
  · split
    · by_cases hd : (drawNat (storeCtl v s)).1 = 0
      · exact .inr (.inl (if_pos hd))
      · exact .inl (if_neg hd)
    · exact .inl rfl
  · split
    · exact .inr (.inr rfl)
    · exact .inl rfl

theorem frameOk_newFrame (v : Word) : FrameOk (newFrame v) := by
  have hlt := (ctlFl v).isLt
  exact ⟨Nat.succ_pos _, by simp only [newFrame]; omega⟩

theorem writeCtl_plantOk (v : Word) {s : State} (h : PlantOk s) : PlantOk (writeCtl v s) := by
  have hcfg : (writeCtl v s).cfg = s.cfg := (writeCtl_actOnly v s).cfg
  refine ⟨hcfg ▸ h.cfgWf, writeCtl_mem v s ▸ h.memWf, ?_, ?_, ?_, fun f hf => ?_⟩
  · rw [hcfg, writeCtl_tx]
    split
    · exact Nat.zero_le _
    · exact h.txFits
  · rw [hcfg, writeCtl_rx]
    split
    · exact Nat.zero_le _
    · exact h.rxFits
  · rw [hcfg, writeCtl_ctl, BitVec.and_assoc, BitVec.and_comm (~~~clearMask s.cfg), BitVec.and_not_self]
    exact BitVec.and_zero
  · rcases writeCtl_frame_cases v s with he | he | he <;> rw [he] at hf
    · exact h.frameOk f hf
    · cases hf
    · cases hf; exact frameOk_newFrame v

/-- Every access of an action keeps the plant's part of the invariant. -/
theorem Access.keeps_plantOk {s t : State} {es : List Event} (ha : Access s t es) (h : PlantOk s)
    (hc : t.cfg = s.cfg) : PlantOk t := by
  cases ha with
  | quiet hp hm => exact h.congr hc hm hp
  | ctlWritten v hp hm =>
    exact (writeCtl_plantOk v h).congr (hc.trans (writeCtl_actOnly v s).cfg.symm) (hm.trans (writeCtl_mem v s).symm) hp
  | txdWritten v hroom hp hm =>
    have hfull : PlantOk (s.withPeriph { s.periph with tx := s.periph.tx ++ [v] }) :=
      ⟨h.cfgWf, h.memWf, by simpa using hroom, h.rxFits, h.ctlClear, h.frameOk⟩
    exact hfull.congr hc hm hp
  | rxdRead w rest hrx hp hm =>
    have hrest : rest.length ≤ s.cfg.rxDepth := by
      have hle := h.rxFits
      rw [hrx, List.length_cons] at hle
      omega
    have htaken : PlantOk (s.withPeriph { s.periph with rx := rest }) :=
      ⟨h.cfgWf, h.memWf, h.txFits, hrest, h.ctlClear, h.frameOk⟩
    exact htaken.congr hc hm hp
  | stored a v ha hp hm =>
    have hstored : PlantOk (s.withMem (s.mem.write a v)) :=
      ⟨h.cfgWf, Memory.write_wf _ _ _ h.memWf ha, h.txFits, h.rxFits, h.ctlClear, h.frameOk⟩
    exact hstored.congr hc hm hp

/-! ### Ticks, requests and the host's moves -/

theorem act_inv {s t : State} (h : s.Inv) (hb : s.busy = true) (ha : act s = .next t) : t.Inv := by
  obtain ⟨hp, hok⟩ := (inv_iff s).mp h
  obtain ⟨es, hm, -, hacc⟩ := act_acts hb ha
  exact (inv_iff t).mpr ⟨hacc.keeps_plantOk hp (act_actOnly ha).cfg, hm.keeps_ok hok⟩

theorem blockReset_inv {s : State} (h : s.Inv) : (blockReset s).Inv := by
  obtain ⟨hp, -⟩ := (inv_iff s).mp h
  exact (inv_iff _).mpr ⟨hp.congr rfl rfl rfl, ⟨fun hw => absurd rfl hw, trivial, trivial, trivial⟩⟩

/-- A change of the inputs alone. -/
theorem withEnv_inv {s : State} (e : Env) (h : s.Inv) : (s.withEnv e).Inv := by
  obtain ⟨hp, hok⟩ := (inv_iff s).mp h
  exact (inv_iff _).mpr ⟨hp.congr rfl rfl rfl, hok⟩

theorem tick_inv {s t : State} (h : s.Inv) (hb : s.busy = true) (ht : tick s = .next t) : t.Inv := by
  rcases tick_next ht with ⟨later, -, rfl⟩ | ⟨r, u, -, hu, ha⟩
  · exact blockReset_inv (withEnv_inv _ h)
  · have hub : u.busy = true := by rw [State.busy, (breathe_periphOnly hu).block]; exact hb
    exact act_inv (breathe_inv (withEnv_inv _ h) hu) hub ha

theorem resume_inv {s t : State} (h : s.Inv) (hr : resume s = .next t) : t.Inv :=
  runTicks_keeps State.Inv (fun _ _ hs hb ht => tick_inv hs hb ht) _ s t h hr

theorem accept_inv (op : BitVec 3) (buf size : Word) {s : State} (h : s.Inv) : (accept op buf size s).Inv := by
  obtain ⟨hp, -⟩ := (inv_iff s).mp h
  refine (inv_iff _).mpr ⟨⟨?_, ?_, ?_, ?_, ?_, fun f hf => ?_⟩, blockOk_accept op buf size s⟩
  · simpa using hp.cfgWf
  · simpa using hp.memWf
  · simpa using hp.txFits
  · simpa using hp.rxFits
  · simpa using hp.ctlClear
  · rcases accept_frame op buf size s with ⟨-, he⟩ | ⟨g, w, hg, he⟩ <;> rw [he] at hf
    · cases hf
    · cases hf; exact hp.frameOk g hg

theorem exec_inv {i : Instr} {s t : State} (h : s.Inv) (he : exec i s = .next t) : t.Inv := by
  cases hb : s.busy with
  | true => rw [exec_of_busy i hb] at he; cases he; exact h
  | false => rw [exec_of_idle i hb] at he; exact resume_inv (accept_inv _ _ _ h) he

/-- A change that leaves the configuration, memory, the peripheral and the block's registers. -/
theorem inv_congr {s t : State} (h : s.Inv) (hc : t.cfg = s.cfg) (hm : t.mem = s.mem) (hp : t.periph = s.periph)
    (hb : t.block = s.block) : t.Inv := by
  obtain ⟨hplant, hok⟩ := (inv_iff s).mp h
  exact (inv_iff t).mpr ⟨hplant.congr hc hm hp, hb ▸ hok⟩

/-- An access of the host's. -/
theorem access_inv {s t : State} {es : List Event} (h : s.Inv) (ha : Access s t es) (hc : t.cfg = s.cfg)
    (hb : t.block = s.block) : t.Inv := by
  obtain ⟨hplant, hok⟩ := (inv_iff s).mp h
  exact (inv_iff t).mpr ⟨ha.keeps_plantOk hplant hc, hb ▸ hok⟩

theorem hostMmioRead_inv {a : Nat} {s t : State} (h : s.Inv) (hm : hostMmioRead a s = .next t) : t.Inv := by
  unfold hostMmioRead at hm
  split at hm
  · cases hm; exact inv_congr h rfl rfl rfl rfl
  · cases hm; exact inv_congr h rfl rfl rfl rfl
  · cases hm; exact inv_congr h rfl rfl rfl rfl
  · obtain ⟨⟨w, u⟩, hu, hn⟩ := andThen_eq_next.mp hm
    cases hn
    obtain ⟨rest, hrx, rfl⟩ := readRxd_next hu
    exact access_inv h (.rxdRead w rest hrx rfl rfl) rfl rfl
  · cases hm

theorem hostMmioWrite_inv {a : Nat} {v : Word} {s t : State} (h : s.Inv) (hm : hostMmioWrite a v s = .next t) :
    t.Inv := by
  unfold hostMmioWrite at hm
  split at hm
  · cases hm
    exact access_inv h (.ctlWritten v rfl (writeCtl_mem v s)) (writeCtl_actOnly v s).cfg (writeCtl_block v s)
  · cases hm; exact inv_congr h rfl rfl rfl rfl
  · obtain ⟨hroom, rfl⟩ := writeTxd_next hm
    exact access_inv h (.txdWritten v hroom rfl rfl) rfl rfl
  · cases hm
  · cases hm

theorem hostMove_inv {m : HostMove} {s t : State} (h : s.Inv) (hm : hostMove m s = .next t) : t.Inv := by
  cases m with
  | request w => cases hm; exact h
  | setReady v => cases hm; exact inv_congr h rfl rfl rfl rfl
  | setCsForced v => cases hm; exact inv_congr h rfl rfl rfl rfl
  | bufWrite a v => cases hm; exact access_inv h (.stored a.toNat v a.isLt rfl rfl) rfl rfl
  | mmioRead a => exact hostMmioRead_inv h hm
  | mmioWrite a v => exact hostMmioWrite_inv h hm
  | irq op => cases hm; cases op <;> exact inv_congr h rfl rfl rfl rfl
  | chipReady => cases hm; exact inv_congr h rfl rfl rfl rfl
  | gpio op id => cases hm; cases id <;> exact inv_congr h rfl rfl rfl rfl
  | reset => cases hm; exact blockReset_inv h

/-- Settles O4: the ticks of a request, its acceptance, and every move of the host keep the invariant. -/
theorem stepKeepsTheInvariant : Obligations.StepKeepsTheInvariant := by
  intro s t h hs
  unfold step at hs
  split at hs
  · exact resume_inv h hs
  · split at hs
    · obtain ⟨u, hu, he⟩ := andThen_eq_next.mp hs
      exact exec_inv (breathe_inv (withEnv_inv _ h) hu) he
    · unfold idleStep at hs
      split at hs
      · exact breathe_inv h hs
      · obtain ⟨u, hu, hm⟩ := andThen_eq_next.mp hs
        exact hostMove_inv (breathe_inv (withEnv_inv _ h) hu) hm

end Sys2Proof.Machine

namespace Sys2Proof.Machine

/-! ## A frame that has its words and its room -/

/-- The bytes of a FIFO word in wire order (R65). -/
def lanes (w : Word) : List Byte := (List.range 4).map (byteOf w)

/-- The bytes of FIFO words in wire order (R65). -/
def laneBytes (ws : List Word) : List Byte := ws.flatMap lanes

theorem lanes_eq (w : Word) : lanes w = [byteOf w 0, byteOf w 1, byteOf w 2, byteOf w 3] := rfl

@[simp] theorem length_lanes (w : Word) : (lanes w).length = 4 := rfl

@[simp] theorem laneBytes_nil : laneBytes [] = [] := rfl

@[simp] theorem laneBytes_cons (w : Word) (ws : List Word) : laneBytes (w :: ws) = lanes w ++ laneBytes ws := rfl

theorem laneBytes_concat (ws : List Word) (w : Word) : laneBytes (ws ++ [w]) = laneBytes ws ++ lanes w := by
  simp [laneBytes]

theorem length_laneBytes (ws : List Word) : (laneBytes ws).length = 4 * ws.length := by
  induction ws with
  | nil => rfl
  | cons w ws ih => simp [ih, Nat.mul_add, Nat.add_comm]

/-- A byte set in a word is the one read at its lane, and the other lanes are as before. -/
theorem byteOf_setByte (w : Word) {k j : Nat} (b : Byte) (hk : k < 4) (hj : j < 4) :
    byteOf (setByte w k b) j = if j = k then b else byteOf w j := by
  ext i hi
  have hmask : ∀ n (h : n < 32), (0xFF#32)[n] = decide (n < 8) := by decide
  have hlt : 8 * j + i < 32 := by omega
  rcases Nat.lt_trichotomy j k with h | rfl | h
  · rw [if_neg h.ne]
    simp [byteOf, setByte, hlt, show 8 * j + i < 8 * k by omega]
  · simp [byteOf, setByte, hlt, hmask, hi]
  · rw [if_neg h.ne']
    have hge : 8 ≤ 8 * j + i - 8 * k := by omega
    simp [byteOf, setByte, hlt, hmask, BitVec.getLsbD_of_ge _ _ hge, show ¬ 8 * j + i < 8 * k by omega,
      show ¬ 8 * j + i - 8 * k < 8 by omega]

/-- A byte received goes on top of those the assembly word holds. -/
theorem take_lanes_setByte (a : Word) {k : Nat} (v : Byte) (hk : k < 4) :
    (lanes (setByte a k v)).take (k + 1) = (lanes a).take k ++ [v] := by
  interval_cases k <;> simp [lanes_eq, byteOf_setByte]

/-- Byte i of the wire image is byte i % 4 of word i / 4. -/
theorem getElem?_laneBytes {ws : List Word} : ∀ {i : Nat} {w : Word}, ws[i / 4]? = some w →
    (laneBytes ws)[i]? = some (byteOf w (i % 4)) := by
  induction ws with
  | nil => intro i w h; simp at h
  | cons x ws ih =>
    intro i w h
    rw [laneBytes_cons]
    by_cases hi : i < 4
    · rw [Nat.div_eq_of_lt hi] at h
      cases h
      rw [List.getElem?_append_left (by simpa using hi), Nat.mod_eq_of_lt hi]
      interval_cases i <;> rfl
    · obtain ⟨j, rfl⟩ : ∃ j, i = j + 4 := ⟨i - 4, by omega⟩
      rw [List.getElem?_append_right (by simp), length_lanes, Nat.add_sub_cancel, Nat.add_mod_right]
      rw [Nat.add_div_right j (by omega), List.getElem?_cons_succ] at h
      exact ih h

theorem take_laneBytes_succ {ws : List Word} {i : Nat} {w : Word} (h : ws[i / 4]? = some w) :
    (laneBytes ws).take (i + 1) = (laneBytes ws).take i ++ [byteOf w (i % 4)] := by
  rw [List.take_add_one, getElem?_laneBytes h]; rfl

/-- An undisturbed exchange puts the given byte on the link and takes the link partner's (R46). -/
theorem exchange_of_undisturbed (b : Byte) {s : State} (h : s.periph.disturbed = false) :
    ∃ v t, exchange b s = ((b, v), t) ∧ SameButTapes s t := by
  refine ⟨(drawAnswer s).1, (drawAnswer s).2, ?_, drawAnswer_same s⟩
  unfold exchange
  rw [h]; rfl

/-- A byte inside a word of an undisturbed frame. -/
theorem frameExchange_inside {f : Frame} {s : State} (hd : s.periph.disturbed = false) (hn : f.i + 1 ≠ f.n)
    (h3 : f.i % 4 ≠ 3) :
    ∃ v t, frameExchange f s = .next t ∧ t.cfg = s.cfg
      ∧ t.trace = s.trace ++ [.wire (byteOf f.word (f.i % 4)) v]
      ∧ t.periph = { s.periph with frame := some { f with i := f.i + 1, rx := setByte f.rx (f.i % 4) v } } := by
  obtain ⟨v, u, hx, hu⟩ := exchange_of_undisturbed (byteOf f.word (f.i % 4)) hd
  refine ⟨v, setFrame (some { f with i := f.i + 1, rx := setByte f.rx (f.i % 4) v })
    (u.log (.wire (byteOf f.word (f.i % 4)) v)), ?_, hu.cfg, ?_, ?_⟩
  · simp only [frameExchange, hx, if_neg hn, if_neg h3]
  · simp [setFrame, hu.trace]
  · simp [setFrame, hu.periph]

/-- The last byte of a word of an undisturbed frame, with room in the RX FIFO. -/
theorem frameExchange_wordEnds {f : Frame} {s : State} (hd : s.periph.disturbed = false)
    (hroom : s.periph.rx.length < s.cfg.rxDepth) (hend : f.i + 1 = f.n ∨ f.i % 4 = 3) :
    ∃ v t, frameExchange f s = .next t ∧ t.cfg = s.cfg
      ∧ t.trace = s.trace ++ [.wire (byteOf f.word (f.i % 4)) v]
      ∧ t.periph = { s.periph with
          tx := s.periph.tx.tail
          rx := s.periph.rx ++ [setByte f.rx (f.i % 4) v]
          frame := if f.i + 1 = f.n then none else some { f with i := f.i + 1, rx := setByte f.rx (f.i % 4) v } } := by
  obtain ⟨v, u, hx, hu⟩ := exchange_of_undisturbed (byteOf f.word (f.i % 4)) hd
  have hdone : ∀ a, frameWordDone a (u.log (.wire (byteOf f.word (f.i % 4)) v))
      = .next ((u.log (.wire (byteOf f.word (f.i % 4)) v)).withPeriph
          { u.periph with tx := u.periph.tx.tail, rx := u.periph.rx ++ [a] }) := by
    intro a
    rw [← hu.periph, ← hu.cfg] at hroom
    unfold frameWordDone rxFull
    exact if_neg fun hfull => absurd (of_decide_eq_true hfull) (Nat.not_le.mpr hroom)
  refine ⟨v, setFrame (if f.i + 1 = f.n then none else some { f with i := f.i + 1, rx := setByte f.rx (f.i % 4) v })
    ((u.log (.wire (byteOf f.word (f.i % 4)) v)).withPeriph
      { u.periph with tx := u.periph.tx.tail, rx := u.periph.rx ++ [setByte f.rx (f.i % 4) v] }), ?_, hu.cfg, ?_, ?_⟩
  · by_cases hn : f.i + 1 = f.n
    · simp only [frameExchange, hx, if_pos hn, hdone, andThen_next]
    · simp only [frameExchange, hx, if_neg hn, if_pos (hend.resolve_left hn), hdone, andThen_next]
  · simp [setFrame, hu.trace]
  · simp [setFrame, hu.periph]

/-- What an n-byte frame of the words `ws` that began in s has done after i bytes: the bytes `ins` received, the RX
words `rs` appended. -/
structure FrameSent (s : State) (ws more : List Word) (i : Nat) (ins : List Byte) (rs : List Word) (u : State) :
    Prop where
  cfg : u.cfg = s.cfg
  disturbed : u.periph.disturbed = false
  tx : u.periph.tx = ws.drop rs.length ++ more
  rx : u.periph.rx = s.periph.rx ++ rs
  count : ins.length = i
  out : u.wireOut = s.wireOut ++ (laneBytes ws).take i
  inn : u.wireIn = s.wireIn ++ ins

/-- The frame after i of its n bytes: its words so far are done, and the assembly word holds the rest of what was
received. -/
def FrameAt (s : State) (ws more : List Word) (n i : Nat) (u : State) : Prop :=
  ∃ ins rs f, FrameSent s ws more i ins rs u ∧ u.periph.frame = some f ∧ f.n = n ∧ f.i = i ∧ rs.length = i / 4
    ∧ laneBytes rs ++ (lanes f.rx).take (i % 4) = ins ∧ (i % 4 ≠ 0 → ws[i / 4]? = some f.word)

/-- The frame at its end. -/
def FrameOver (s : State) (ws more : List Word) (n : Nat) (u : State) : Prop :=
  ∃ ins rs, FrameSent s ws more n ins rs u ∧ u.periph.frame = none ∧ rs.length = ws.length
    ∧ (laneBytes rs).take n = ins

/-- The first byte of a word loads it; every byte is then exchanged from the loaded words. -/
theorem frameByte_loaded {f : Frame} {u : State} {w : Word} (hload : f.i % 4 = 0 → ∃ l, u.periph.tx = w :: l)
    (hword : f.i % 4 ≠ 0 → f.word = w) :
    ∃ a u', SameButTapes u u' ∧ (lanes a).take (f.i % 4) = (lanes f.rx).take (f.i % 4)
      ∧ frameByte f u = frameExchange { f with word := w, rx := a } u' := by
  by_cases h0 : f.i % 4 = 0
  · obtain ⟨l, hl⟩ := hload h0
    refine ⟨(drawPad u).1, (drawPad u).2, drawPad_same u, ?_, ?_⟩
    · rw [h0]; rfl
    · unfold frameByte
      rw [if_pos h0, hl]
  · refine ⟨f.rx, u, SameButTapes.refl u, rfl, ?_⟩
    unfold frameByte
    rw [if_neg h0, ← hword h0]

theorem FrameSent.drawn {s u u' : State} {ws more : List Word} {i : Nat} {ins : List Byte} {rs : List Word}
    (h : FrameSent s ws more i ins rs u) (k : SameButTapes u u') : FrameSent s ws more i ins rs u' :=
  ⟨k.cfg.trans h.cfg, by rw [k.periph, h.disturbed], by rw [k.periph, h.tx], by rw [k.periph, h.rx], h.count,
    by rw [State.wireOut, k.trace]; exact h.out, by rw [State.wireIn, k.trace]; exact h.inn⟩

theorem FrameSent.wire_next {s u t : State} {ws more : List Word} {i : Nat} {ins : List Byte} {rs : List Word}
    {w : Word} {v : Byte} (h : FrameSent s ws more i ins rs u) (hw : ws[i / 4]? = some w)
    (ht : t.trace = u.trace ++ [.wire (byteOf w (i % 4)) v]) :
    t.wireOut = s.wireOut ++ (laneBytes ws).take (i + 1) ∧ t.wireIn = s.wireIn ++ (ins ++ [v]) := by
  constructor
  · rw [take_laneBytes_succ hw, ← List.append_assoc, ← h.out, State.wireOut, ht, List.filterMap_append]; rfl
  · rw [← List.append_assoc, ← h.inn, State.wireIn, ht, List.filterMap_append]; rfl

/-- The frame before byte i with its words loaded: w is shifted out, and a holds what was received of the word. -/
structure FrameLoaded (s : State) (ws more : List Word) (i : Nat) (ins : List Byte) (rs : List Word) (w a : Word)
    (u : State) : Prop where
  sent : FrameSent s ws more i ins rs u
  count : rs.length = i / 4
  word : ws[i / 4]? = some w
  got : laneBytes rs ++ (lanes a).take (i % 4) = ins

theorem FrameLoaded.tx_eq {s u : State} {ws more : List Word} {i : Nat} {ins : List Byte} {rs : List Word}
    {w a : Word} (h : FrameLoaded s ws more i ins rs w a u) : u.periph.tx = w :: (ws.drop (i / 4 + 1) ++ more) := by
  obtain ⟨hlt, he⟩ := List.getElem?_eq_some_iff.mp h.word
  rw [h.sent.tx, h.count, List.drop_eq_getElem_cons hlt, he, List.cons_append]

/-- The bytes received, with one more on top of the assembly word. -/
theorem FrameLoaded.got_next {s u : State} {ws more : List Word} {i : Nat} {ins : List Byte} {rs : List Word}
    {w a : Word} (h : FrameLoaded s ws more i ins rs w a u) (v : Byte) :
    laneBytes rs ++ (lanes (setByte a (i % 4) v)).take (i % 4 + 1) = ins ++ [v] := by
  rw [take_lanes_setByte a v (Nat.mod_lt _ (by omega)), ← List.append_assoc, h.got]

/-- Loading a word, where one begins, brings the frame to the exchange of its byte i. -/
theorem FrameAt.loaded {s u : State} {ws more : List Word} {n i : Nat} (h : FrameAt s ws more n i u) (hi : i < n)
    (hlen : ws.length = (n + 3) / 4) :
    ∃ f ins rs w a u', u.periph.frame = some f ∧ frameByte f u = frameExchange ⟨n, i, w, a⟩ u'
      ∧ FrameLoaded s ws more i ins rs w a u' := by
  obtain ⟨ins, rs, f, hs, hf, rfl, rfl, hrs, hins, hword⟩ := h
  obtain ⟨w, hw⟩ : ∃ w, ws[f.i / 4]? = some w := ⟨_, List.getElem?_eq_getElem (by omega)⟩
  have hnow : FrameLoaded s ws more f.i ins rs w f.rx u := ⟨hs, hrs, hw, hins⟩
  obtain ⟨a, u', hu', ha, he⟩ := frameByte_loaded (fun _ => ⟨_, hnow.tx_eq⟩)
    fun h0 => Option.some.inj ((hword h0).symm.trans hw)
  exact ⟨f, ins, rs, w, a, u', hf, he, hs.drawn hu', hrs, hw, by rw [ha, hins]⟩

/-- A byte inside a word takes the frame one byte further. -/
theorem FrameLoaded.inside {s u : State} {ws more : List Word} {n i : Nat} {ins : List Byte} {rs : List Word}
    {w a : Word} (h : FrameLoaded s ws more i ins rs w a u) (hn : i + 1 ≠ n) (h3 : i % 4 ≠ 3) :
    ∃ t, frameExchange ⟨n, i, w, a⟩ u = .next t ∧ FrameAt s ws more n (i + 1) t := by
  have hs := h.sent
  obtain ⟨v, t, ht, hcfg, htrace, hp⟩ := frameExchange_inside (f := ⟨n, i, w, a⟩) hs.disturbed hn h3
  obtain ⟨hout, hin⟩ := hs.wire_next h.word htrace
  have hsent : FrameSent s ws more (i + 1) (ins ++ [v]) rs t :=
    ⟨hcfg.trans hs.cfg, by rw [hp]; exact hs.disturbed, by rw [hp]; exact hs.tx, by rw [hp]; exact hs.rx,
      by simp [hs.count], hout, hin⟩
  have hcount := h.count
  refine ⟨t, ht, _, _, ⟨n, i + 1, w, setByte a (i % 4) v⟩, hsent, by rw [hp], rfl, rfl, by omega, ?_, fun _ => ?_⟩
  · rw [← h.got_next v, show (i + 1) % 4 = i % 4 + 1 by omega]
  · rw [show (i + 1) / 4 = i / 4 by omega]; exact h.word

/-- The last byte of a word takes the frame one byte further, or to its end. -/
theorem FrameLoaded.wordEnds {s u : State} {ws more : List Word} {n i : Nat} {ins : List Byte} {rs : List Word}
    {w a : Word} (h : FrameLoaded s ws more i ins rs w a u) (hi : i < n) (hlen : ws.length = (n + 3) / 4)
    (hroom : s.periph.rx.length + ws.length ≤ s.cfg.rxDepth) (hend : i + 1 = n ∨ i % 4 = 3) :
    ∃ t, frameExchange ⟨n, i, w, a⟩ u = .next t
      ∧ (i + 1 < n → FrameAt s ws more n (i + 1) t) ∧ (i + 1 = n → FrameOver s ws more n t) := by
  have hs := h.sent
  have hcount := h.count
  have hroom' : u.periph.rx.length < u.cfg.rxDepth := by
    rw [hs.rx, hs.cfg, List.length_append]; omega
  obtain ⟨v, t, ht, hcfg, htrace, hp⟩ := frameExchange_wordEnds (f := ⟨n, i, w, a⟩) hs.disturbed hroom' hend
  obtain ⟨hout, hin⟩ := hs.wire_next h.word htrace
  have hrs : (rs ++ [setByte a (i % 4) v]).length = i / 4 + 1 := by simp [hcount]
  have hsent : FrameSent s ws more (i + 1) (ins ++ [v]) (rs ++ [setByte a (i % 4) v]) t := by
    refine ⟨hcfg.trans hs.cfg, by rw [hp]; exact hs.disturbed, ?_, ?_, by simp [hs.count], hout, hin⟩
    · rw [hp, hrs]; simp [h.tx_eq]
    · rw [hp]; simp [hs.rx]
  refine ⟨t, ht, fun hlt => ?_, fun heq => ?_⟩
  · have h3 : i % 4 = 3 := hend.resolve_left hlt.ne
    refine ⟨_, _, ⟨n, i + 1, w, setByte a (i % 4) v⟩, hsent, by rw [hp]; exact if_neg hlt.ne, rfl, rfl, by omega, ?_,
      fun h0 => by omega⟩
    have hfull := h.got_next v
    rw [h3, List.take_of_length_le (by simp)] at hfull
    rw [show (i + 1) % 4 = 0 by omega, List.take_zero, List.append_nil, laneBytes_concat, h3, hfull]
  · refine ⟨_, _, heq ▸ hsent, by rw [hp]; exact if_pos heq, by omega, ?_⟩
    rw [laneBytes_concat, List.take_append, length_laneBytes, hcount, ← h.got_next v,
      List.take_of_length_le (by rw [length_laneBytes]; omega), show n - 4 * (i / 4) = i % 4 + 1 by omega]

/-- One byte of the frame. -/
theorem FrameAt.step {s u : State} {ws more : List Word} {n i : Nat} (h : FrameAt s ws more n i u) (hi : i < n)
    (hlen : ws.length = (n + 3) / 4) (hroom : s.periph.rx.length + ws.length ≤ s.cfg.rxDepth) :
    ∃ f t, u.periph.frame = some f ∧ frameByte f u = .next t
      ∧ (i + 1 < n → FrameAt s ws more n (i + 1) t) ∧ (i + 1 = n → FrameOver s ws more n t) := by
  obtain ⟨f, ins, rs, w, a, u', hf, he, hload⟩ := h.loaded hi hlen
  by_cases hend : i + 1 = n ∨ i % 4 = 3
  · obtain ⟨t, ht, hnext⟩ := hload.wordEnds hi hlen hroom hend
    exact ⟨f, t, hf, he.trans ht, hnext⟩
  · rw [not_or] at hend
    obtain ⟨t, ht, hat⟩ := hload.inside hend.1 hend.2
    exact ⟨f, t, hf, he.trans ht, fun _ => hat, fun heq => absurd heq hend.1⟩

/-- The bytes left take the frame to its end. -/
theorem FrameAt.run {s : State} {ws more : List Word} {n : Nat} (hlen : ws.length = (n + 3) / 4)
    (hroom : s.periph.rx.length + ws.length ≤ s.cfg.rxDepth) :
    ∀ (m i : Nat) (u : State), FrameAt s ws more n i u → i < n → i + m = n →
      ∃ t, periphRun m u = .next t ∧ FrameOver s ws more n t := by
  intro m
  induction m with
  | zero => intro i u h hi hm; omega
  | succ m ih =>
    intro i u h hi hm
    obtain ⟨f, t, hf, ht, hgo, hover⟩ := h.step hi hlen hroom
    unfold periphRun
    rw [hf]
    simp only [ht, andThen_next]
    by_cases hlast : i + 1 = n
    · obtain rfl : m = 0 := by omega
      exact ⟨t, rfl, hover hlast⟩
    · exact ih (i + 1) t (hgo (by omega)) (by omega) (by omega)

/-- Settles O47: the frame starts with none of its bytes exchanged, and `FrameAt.run` takes it to its end. -/
theorem frameSendsItsWordsInLaneOrder : Obligations.FrameSendsItsWordsInLaneOrder := by
  intro s f ws more hf hi hn hd htx hlen hroom
  have hstart : FrameAt s ws more f.n 0 s := by
    refine ⟨[], [], f, ⟨rfl, hd, ?_, by simp, rfl, by simp, by simp⟩, hf, rfl, hi, rfl, by simp, by simp⟩
    simpa using htx
  obtain ⟨t, ht, ins, rs, hs, hnone, hrs, hins⟩ := hstart.run hlen hroom f.n 0 s hn (Nat.zero_add _)
  refine ⟨t, ins, rs, ht, hnone, ?_, hs.rx, hrs, hs.count, hs.out, hs.inn, hins⟩
  rw [hs.tx, hrs, List.drop_length, List.nil_append]

end Sys2Proof.Machine

namespace Sys2Proof.Machine

/-! ## No request sees a context flag, the interrupt collaborator or a GPIO line -/

/-- The state with other context flags, another interrupt collaborator and other GPIO lines. -/
def State.withBoundary (c : Ctx) (q : Irq) (g : Gpio) (s : State) : State := ((s.withCtx c).withIrq q).withGpio g

/-- The outcome with those values in its state. -/
def onBoundary (c : Ctx) (q : Irq) (g : Gpio) (o : Res State) : Res State :=
  andThen o fun t => .next (t.withBoundary c q g)

/-- The outcome of a read with those values in its state. -/
def onBoundaryRead {α : Type} (c : Ctx) (q : Irq) (g : Gpio) (o : Res (α × State)) : Res (α × State) :=
  andThen o fun r => .next (r.1, r.2.withBoundary c q g)

section
variable (c : Ctx) (q : Irq) (g : Gpio)

@[simp] theorem withBoundary_block (s : State) : (s.withBoundary c q g).block = s.block := rfl
@[simp] theorem withBoundary_cfg (s : State) : (s.withBoundary c q g).cfg = s.cfg := rfl
@[simp] theorem withBoundary_periph (s : State) : (s.withBoundary c q g).periph = s.periph := rfl
@[simp] theorem withBoundary_env (s : State) : (s.withBoundary c q g).env = s.env := rfl

theorem log_withBoundary (s : State) (e : Event) :
    (s.withBoundary c q g).log e = (s.log e).withBoundary c q g := rfl
theorem withBlock_withBoundary (s : State) (b : Block) :
    (s.withBoundary c q g).withBlock b = (s.withBlock b).withBoundary c q g := rfl
theorem drawPad_withBoundary (s : State) :
    drawPad (s.withBoundary c q g) = ((drawPad s).1, (drawPad s).2.withBoundary c q g) := rfl
theorem drawSched_withBoundary (s : State) :
    drawSched (s.withBoundary c q g) = ((drawSched s).1, (drawSched s).2.withBoundary c q g) := rfl

@[simp] theorem onBoundary_next (t : State) : onBoundary c q g (.next t) = .next (t.withBoundary c q g) := rfl

theorem withBoundary_ite (p : Prop) [Decidable p] (x y : State) :
    (if p then x else y).withBoundary c q g = if p then x.withBoundary c q g else y.withBoundary c q g :=
  apply_ite _ _ _ _

theorem onBoundary_ite (p : Prop) [Decidable p] (x y : Res State) :
    onBoundary c q g (if p then x else y) = if p then onBoundary c q g x else onBoundary c q g y :=
  apply_ite _ _ _ _

/-- Two steps that do not see the boundary, one after the other. -/
theorem onBoundary_andThen {o o' : Res State} {f : State → Res State} (ho : o' = onBoundary c q g o)
    (hf : ∀ t, f (t.withBoundary c q g) = onBoundary c q g (f t)) :
    andThen o' f = onBoundary c q g (andThen o f) := by
  subst ho
  cases o with
  | next t => exact hf t
  | fault r => rfl
  | refused r => rfl

/-- A read that does not see the boundary, and a step on what it read. -/
theorem onBoundaryRead_andThen {α : Type} {o o' : Res (α × State)} {f : α × State → Res State}
    (ho : o' = onBoundaryRead c q g o) (hf : ∀ a t, f (a, t.withBoundary c q g) = onBoundary c q g (f (a, t))) :
    andThen o' f = onBoundary c q g (andThen o f) := by
  subst ho
  cases o with
  | next r => exact hf r.1 r.2
  | fault r => rfl
  | refused r => rfl

/-! ### The peripheral's share -/

theorem exchange_withBoundary (b : Byte) (s : State) :
    exchange b (s.withBoundary c q g) = ((exchange b s).1, (exchange b s).2.withBoundary c q g) := by
  unfold exchange
  rw [withBoundary_periph]
  split <;> rfl

theorem frameWordDone_withBoundary (a : Word) (s : State) :
    frameWordDone a (s.withBoundary c q g) = onBoundary c q g (frameWordDone a s) := by
  unfold frameWordDone
  rw [onBoundary_ite]; rfl

theorem frameExchange_withBoundary (f : Frame) (s : State) :
    frameExchange f (s.withBoundary c q g) = onBoundary c q g (frameExchange f s) := by
  simp only [frameExchange, exchange_withBoundary, log_withBoundary, onBoundary_ite]
  congr 1
  · exact onBoundary_andThen c q g (frameWordDone_withBoundary c q g _ _) fun t => rfl
  · congr 1
    exact onBoundary_andThen c q g (frameWordDone_withBoundary c q g _ _) fun t => rfl

theorem frameByte_withBoundary (f : Frame) (s : State) :
    frameByte f (s.withBoundary c q g) = onBoundary c q g (frameByte f s) := by
  unfold frameByte
  simp only [withBoundary_periph, drawPad_withBoundary, frameExchange_withBoundary]
  split
  · split <;> rfl
  · rfl

theorem periphRun_withBoundary (k : Nat) (s : State) :
    periphRun k (s.withBoundary c q g) = onBoundary c q g (periphRun k s) := by
  induction k generalizing s with
  | zero => rfl
  | succ k ih =>
    unfold periphRun
    rw [withBoundary_periph]
    split
    · rfl
    · exact onBoundary_andThen c q g (frameByte_withBoundary c q g _ s) ih

theorem breathe_withBoundary (s : State) : breathe (s.withBoundary c q g) = onBoundary c q g (breathe s) := by
  unfold breathe
  simp only [withBoundary_periph, drawSched_withBoundary, periphRun_withBoundary]
  split <;> rfl

/-! ### The actions of a call -/

theorem writeCtl_withBoundary (v : Word) (s : State) :
    writeCtl v (s.withBoundary c q g) = (writeCtl v s).withBoundary c q g := by
  have heffect : writeCtlEffect v (s.withBoundary c q g) = (writeCtlEffect v s).withBoundary c q g := by
    simp only [writeCtlEffect, withBoundary_ite]
    rfl
  rw [writeCtl, heffect]; rfl

theorem readRxd_withBoundary (s : State) : readRxd (s.withBoundary c q g) = onBoundaryRead c q g (readRxd s) := by
  unfold readRxd
  rw [withBoundary_periph]
  split <;> rfl

theorem writeTxd_withBoundary (v : Word) (s : State) :
    writeTxd v (s.withBoundary c q g) = onBoundary c q g (writeTxd v s) := by
  unfold writeTxd
  rw [onBoundary_ite]; rfl

theorem memRead_withBoundary (a : Nat) (s : State) :
    memRead a (s.withBoundary c q g) = onBoundaryRead c q g (memRead a s) := by
  unfold memRead
  rw [withBoundary_env]
  split
  · rfl
  · split <;> rfl

theorem storeByteAt_withBoundary (o : Option Byte) (s : State) :
    storeByteAt o (s.withBoundary c q g) = onBoundaryRead c q g (storeByteAt o s) := by
  cases o <;> rfl

theorem srcByte_withBoundary (i : Nat) (s : State) :
    srcByte i (s.withBoundary c q g) = onBoundaryRead c q g (srcByte i s) := by
  unfold srcByte
  rw [withBoundary_block]
  split
  · exact memRead_withBoundary c q g _ s
  · exact storeByteAt_withBoundary c q g _ s
  · exact storeByteAt_withBoundary c q g _ s
  · exact storeByteAt_withBoundary c q g _ s
  · rfl

theorem dstByte_withBoundary (i : Nat) (v : Byte) (s : State) :
    dstByte i v (s.withBoundary c q g) = onBoundary c q g (dstByte i v s) := by
  unfold dstByte
  rw [withBoundary_block]
  split
  · unfold memWrite
    rw [onBoundary_ite]; rfl
  · rw [onBoundary_ite]; rfl
  · rfl
  · rfl
  · rfl

theorem waitPoll_withBoundary (t : StaTest) {onHold : State → State}
    (ho : ∀ s, onHold (s.withBoundary c q g) = (onHold s).withBoundary c q g) (s : State) :
    waitPoll t onHold (s.withBoundary c q g) = onBoundary c q g (waitPoll t onHold s) := by
  have hread : readSta (s.withBoundary c q g) = ((readSta s).1, (readSta s).2.withBoundary c q g) := rfl
  unfold waitPoll
  rw [hread, onBoundary_ite]
  simp only [withBoundary_cfg, ho, onBoundary_ite]
  rfl

theorem nextWord_goWte_withBoundary (w : Wte) (s : State) :
    nextWord (goWte w) (s.withBoundary c q g) = (nextWord (goWte w) s).withBoundary c q g := by
  rw [nextWord_goWte, nextWord_goWte]; rfl

theorem nextByte_withBoundary (k : Fin 4) {fin : State → State}
    (hf : ∀ s, fin (s.withBoundary c q g) = (fin s).withBoundary c q g) (s : State) :
    nextByte k fin (s.withBoundary c q g) = (nextByte k fin s).withBoundary c q g := by
  unfold nextByte
  split
  · rfl
  · exact hf s

theorem packByte_withBoundary (k : Fin 4) (s : State) :
    packByte k (s.withBoundary c q g) = onBoundary c q g (packByte k s) := by
  have hlast : ∀ u, goPhase .last (u.withBoundary c q g) = (goPhase .last u).withBoundary c q g := fun _ => rfl
  have hnext := nextByte_withBoundary c q g k hlast
  simp only [packByte, onBoundary_ite, withBlock_withBoundary, hnext, withBoundary_block]
  congr 1
  refine onBoundaryRead_andThen c q g (srcByte_withBoundary c q g _ s) fun a t => ?_
  rw [withBlock_withBoundary, hnext]; rfl

theorem unpackByte_withBoundary (k : Fin 4) (s : State) :
    unpackByte k (s.withBoundary c q g) = onBoundary c q g (unpackByte k s) := by
  have hfin := nextByte_withBoundary c q g k (nextWord_goWte_withBoundary c q g .next)
  simp only [unpackByte, onBoundary_ite]
  congr 1
  · exact onBoundary_andThen c q g (dstByte_withBoundary c q g _ _ s) fun t => congrArg _ (hfin t)
  · exact congrArg _ (hfin s)

theorem takeRxWord_withBoundary (s : State) :
    takeRxWord (s.withBoundary c q g) = onBoundary c q g (takeRxWord s) := by
  refine onBoundaryRead_andThen c q g (readRxd_withBoundary c q g s) fun a t => ?_
  dsimp only
  rw [withBoundary_block]
  split
  · exact congrArg _ (nextWord_goWte_withBoundary c q g .next t)
  · rfl

theorem drain_withBoundary (s : State) : drain (s.withBoundary c q g) = onBoundary c q g (drain s) := by
  have hpoll : drainPoll (s.withBoundary c q g) = (drainPoll s).withBoundary c q g := by
    unfold drainPoll
    dsimp only
    rw [withBoundary_ite, withBoundary_ite]
    rfl
  unfold drain
  rw [withBoundary_block]
  split
  · exact onBoundaryRead_andThen c q g (readRxd_withBoundary c q g s) fun a t => rfl
  · exact congrArg _ hpoll
  · exact congrArg _ hpoll
  · rfl

theorem beginTxWord_withBoundary (s : State) :
    beginTxWord (s.withBoundary c q g) = (beginTxWord s).withBoundary c q g := by
  unfold beginTxWord
  rw [withBoundary_block]
  split <;> rfl

theorem waitTxe_withBoundary (s : State) : waitTxe (s.withBoundary c q g) = onBoundary c q g (waitTxe s) := by
  have hpoll := waitPoll_withBoundary c q g .txe (onHold := goWte .b4Fl) (fun _ => rfl) s
  unfold waitTxe
  rw [withBoundary_block]
  split
  · rfl
  · exact hpoll
  · exact hpoll
  · exact hpoll

theorem txWords_withBoundary (s : State) : txWords (s.withBoundary c q g) = onBoundary c q g (txWords s) := by
  unfold txWords
  rw [withBoundary_block]
  split
  · exact waitPoll_withBoundary c q g .notTxf (beginTxWord_withBoundary c q g) s
  · exact packByte_withBoundary c q g _ s
  · exact onBoundary_andThen c q g (writeTxd_withBoundary c q g _ s)
      fun t => congrArg _ (nextWord_goWte_withBoundary c q g .b6TrigOn t)
  · rfl

theorem rxWords_withBoundary (s : State) : rxWords (s.withBoundary c q g) = onBoundary c q g (rxWords s) := by
  unfold rxWords
  rw [withBoundary_block]
  split
  · exact waitPoll_withBoundary c q g .notRxe (onHold := goPhase .last) (fun _ => rfl) s
  · exact takeRxWord_withBoundary c q g s
  · exact unpackByte_withBoundary c q g _ s
  · rfl

theorem wteAct_withBoundary (s : State) : wteAct (s.withBoundary c q g) = onBoundary c q g (wteAct s) := by
  have htop : wTop (s.withBoundary c q g) = (wTop s).withBoundary c q g := by
    unfold wTop; rw [withBoundary_ite]; rfl
  have hoff : trigOff (s.withBoundary c q g) = (trigOff s).withBoundary c q g := by
    unfold trigOff
    rw [withBoundary_block, withBoundary_cfg, writeCtl_withBoundary]
    split <;> rfl
  have hfl : setFl (s.withBoundary c q g) = (setFl s).withBoundary c q g := by
    unfold setFl
    rw [withBoundary_block, writeCtl_withBoundary]
    split <;> rfl
  have hon : trigOn (s.withBoundary c q g) = (trigOn s).withBoundary c q g := by
    unfold trigOn
    rw [withBoundary_block, withBoundary_cfg, writeCtl_withBoundary]
    split <;> rfl
  unfold wteAct
  rw [withBoundary_block]
  split
  · rfl
  · exact congrArg _ htop
  · exact congrArg _ hoff
  · exact drain_withBoundary c q g s
  · exact waitTxe_withBoundary c q g s
  · exact congrArg _ hfl
  · exact txWords_withBoundary c q g s
  · exact congrArg _ hon
  · exact rxWords_withBoundary c q g s
  · rfl

/-! ### The actions of a `cfl` state, and the request -/

theorem checkRequest_withBoundary (s : State) :
    checkRequest (s.withBoundary c q g) = (checkRequest s).withBoundary c q g := by
  have hbuf : ∀ d, checkBuffer d (s.withBoundary c q g) = (checkBuffer d s).withBoundary c q g := by
    intro d; unfold checkBuffer; rw [withBoundary_ite]; rfl
  have hc53 : checkC53 (s.withBoundary c q g) = (checkC53 s).withBoundary c q g := by
    unfold checkC53; rw [withBoundary_ite]; rfl
  unfold checkRequest
  rw [withBoundary_block]
  split
  · exact hbuf _
  · exact hbuf _
  · rfl
  · exact hc53
  · exact hc53
  · rfl
  · rfl
  · rfl

theorem cflAct_withBoundary (s : State) : cflAct (s.withBoundary c q g) = (cflAct s).withBoundary c q g := by
  have htop : c53Top (s.withBoundary c q g) = (c53Top s).withBoundary c q g := by
    unfold c53Top; rw [withBoundary_ite]; rfl
  unfold cflAct
  rw [withBoundary_block]
  split
  case h_2 => exact checkRequest_withBoundary c q g s
  case h_8 => exact htop
  all_goals rfl

theorem act_withBoundary (s : State) : act (s.withBoundary c q g) = onBoundary c q g (act s) := by
  by_cases hw : s.block.wte = .none
  · rw [act_eq_cflAct hw, act_eq_cflAct (by exact hw), cflAct_withBoundary]; rfl
  · rw [act_eq_wteAct hw, act_eq_wteAct (by exact hw), wteAct_withBoundary]

theorem accept_withBoundary (op : BitVec 3) (buf size : Word) (s : State) :
    accept op buf size (s.withBoundary c q g) = (accept op buf size s).withBoundary c q g := by
  have hforget : forgetAssembly (s.withBoundary c q g) = (forgetAssembly s).withBoundary c q g := by
    unfold forgetAssembly
    rw [withBoundary_periph]
    split <;> rfl
  unfold accept unsettle
  rw [hforget]
  split <;> rfl

/-- A run of ticks with no reset on its way. -/
theorem runTicks_withBoundary (n : Nat) : ∀ s : State, s.env.resets = [] →
    runTicks n (s.withBoundary c q g) = onBoundary c q g (runTicks n s) := by
  induction n with
  | zero => intro s _; rfl
  | succ n ih =>
    intro s hr
    cases hb : s.busy with
    | false => rw [runTicks_idle _ hb, runTicks_idle _ (by exact hb)]; rfl
    | true =>
      rw [runTicks_busy n hb, runTicks_busy n (by exact hb), tick_of_no_reset hr, tick_of_no_reset (by exact hr),
        breathe_withBoundary, andThen_assoc]
      cases hu : breathe s with
      | fault r => rfl
      | refused r => rfl
      | next u =>
        rw [onBoundary_next, andThen_next, andThen_next, act_withBoundary]
        cases ht : act u with
        | fault r => rfl
        | refused r => rfl
        | next t => exact ih t (by rw [(act_actOnly ht).resets, (breathe_periphOnly hu).resets, hr])

end

/-- Settles O41: acceptance, the peripheral's share and every action are the same whatever stands there. -/
theorem requestsDoNotReadFlagsOrCollaborators : Obligations.RequestsDoNotReadFlagsOrCollaborators := by
  intro i s c q g hr
  change exec i (s.withBoundary c q g) = onBoundary c q g (exec i s)
  cases hb : s.busy with
  | true => rw [exec_of_busy i hb, exec_of_busy i (by exact hb)]; rfl
  | false =>
    rw [exec_of_idle i hb, exec_of_idle i (by exact hb), accept_withBoundary]
    exact runTicks_withBoundary c q g _ _ (by simpa using hr)

end Sys2Proof.Machine

namespace Sys2Proof.Machine

/-! ## The register values of a burst -/

/-- XCH is no FIFO-clear bit, so clearing those leaves it (R206). -/
theorem and_not_clear_and_xch {c : Config} (h : c.wf = true) (v : Word) :
    v &&& ~~~clearMask c &&& c.xchMask = v &&& c.xchMask := by
  have hd := (Config.wf_xch h).2.1
  ext i hi
  have hbit : (c.xchMask &&& clearMask c)[i] = false := by rw [hd]; exact BitVec.getElem_zero hi
  simp only [BitVec.getElem_and, BitVec.getElem_not] at hbit ⊢
  cases hx : c.xchMask[i] <;> simp_all

/-- B1 leaves XCH = 0 (R114). -/
theorem ctlTrigOff_and_xch (c : Config) (ctl : Word) : ctlTrigOff c ctl &&& c.xchMask = 0 := by
  rw [ctlTrigOff, BitVec.and_assoc, BitVec.and_comm (~~~c.xchMask), BitVec.and_not_self]
  exact BitVec.and_zero

/-- B6 sets all of XCH (R118). -/
theorem ctlTrigOn_and_xch (c : Config) (ctl : Word) : ctlTrigOn c ctl &&& c.xchMask = c.xchMask := by
  ext i hi
  simp only [ctlTrigOn, BitVec.getElem_and, BitVec.getElem_or]
  cases c.xchMask[i] <;> simp

/-- The length that B4 writes lies inside FL (R99). -/
theorem frameLen_and_flMask (n : BitVec 6) :
    (n.setWidth 32 <<< 16) &&& Config.flMask = n.setWidth 32 <<< 16 := by
  unfold Config.flMask
  revert n
  decide

/-- B4 leaves XCH as it was read (R99, R116). -/
theorem ctlFrameLen_and_xch {c : Config} (h : c.wf = true) (ctl : Word) (n : BitVec 6) :
    ctlFrameLen ctl n &&& c.xchMask = ctl &&& c.xchMask := by
  have hd := (Config.wf_xch h).2.2
  ext i hi
  have hfl := congrArg (fun x => x[i]) (frameLen_and_flMask (n - 1#6))
  have hbit : (c.xchMask &&& Config.flMask)[i] = false := by rw [hd]; exact BitVec.getElem_zero hi
  simp only [ctlFrameLen, BitVec.getElem_and, BitVec.getElem_or, BitVec.getElem_not] at hfl hbit ⊢
  cases hx : c.xchMask[i] <;> simp_all

/-- R206: a poll budget that is a number is at least 1 and below 2^32. -/
theorem Config.wf_poll {c : Config} (h : c.wf = true) {n : Nat} (hn : c.pollLimit = some n) : 1 ≤ n ∧ n < 2 ^ 32 := by
  simp only [Config.wf, Config.wfPoll, hn, Bool.and_eq_true, decide_eq_true_eq] at h
  obtain ⟨⟨⟨⟨⟨⟨h1, -⟩, h2⟩, -⟩, -⟩, -⟩, -⟩ := h
  exact ⟨h1, h2⟩

/-! ## A send finds its bytes -/

/-- A call on the buffer stays inside the space (R61, R150). -/
theorem BlockOk.bufferCall_inside {b : Block} (h : BlockOk b) (hn : b.wte ≠ .none) (hs : b.wSrc = .buf)
    (hpos : 0 < b.wSize.toNat) : b.wBase.toNat + b.wSize.toNat ≤ 2 ^ 32 := by
  have hcall := h.callOk hn
  have hreq := h.requestOk
  have hne : b.wSize ≠ 0 := fun e => by rw [e] at hpos; exact Nat.lt_irrefl 0 hpos
  obtain ⟨-, -, -, hon⟩ := h.bufferCall hn hs
  rcases hon with hc | hc | hc
  · simp only [Machine.callOk, Machine.requestOk, hc] at hcall hreq
    obtain ⟨-, -, hbase, hsize⟩ := hcall
    rw [hbase, hsize]
    exact toNat_add_le_of_not_badBuffer hreq.2 (hsize ▸ hne)
  · simp only [Machine.callOk, Machine.requestOk, hc] at hcall hreq
    obtain ⟨-, -, hbase, hsize⟩ := hcall
    rw [hbase, hsize]
    exact toNat_add_le_of_not_badBuffer hreq.2 (hsize ▸ hne)
  · obtain ⟨hle, hwrap⟩ := h.payload hc
    simp only [Machine.callOk, Machine.requestOk, hc] at hcall hreq
    obtain ⟨-, -, hbase, hsize⟩ := hcall
    rw [hsize, toNat_chunk] at hpos
    have hsz : b.size ≠ 0 := fun e => by rw [e] at hle; simp at hle; omega
    have hin := toNat_add_le_of_not_badBuffer hreq.2 hsz
    rw [hbase, hsize, hwrap, toNat_chunk]
    omega

/-- A draw that keeps the pace tape, or a logged buffer read: what fetching a byte leaves. -/
structure SameButBytes (s t : State) : Prop where
  cfg : t.cfg = s.cfg
  block : t.block = s.block
  periph : t.periph = s.periph
  mem : t.mem = s.mem
  sched : t.env.sched = s.env.sched

/-- A read inside the space answers a byte. -/
theorem memRead_total {a : Nat} (h : a < 2 ^ 32) (s : State) :
    ∃ v t, memRead a s = .next (v, t) ∧ SameButBytes s t := by
  unfold memRead
  rw [if_neg (Nat.not_le.mpr h)]
  split
  · exact ⟨_, _, rfl, rfl, rfl, rfl, rfl, rfl⟩
  · exact ⟨_, _, rfl, rfl, rfl, rfl, rfl, rfl⟩

theorem storeByteAt_total {l : List Byte} {i : Nat} (h : i < l.length) (s : State) :
    ∃ v t, storeByteAt l[i]? s = .next (v, t) ∧ SameButBytes s t := by
  rw [List.getElem?_eq_getElem h]
  exact ⟨_, _, rfl, rfl, rfl, rfl, rfl, rfl⟩

/-- A send finds every byte of its call (R24, R61). -/
theorem srcByte_total {s : State} (h : BlockOk s.block) (hn : s.block.wte ≠ .none) (hd : s.block.wDir = .send) {i : Nat}
    (hi : i < s.block.wSize.toNat) : ∃ v t, srcByte i s = .next (v, t) ∧ SameButBytes s t := by
  have hcall := h.callOk hn
  unfold srcByte
  cases hs : s.block.wSrc with
  | buf =>
    have hin := h.bufferCall_inside hn hs (by omega)
    exact memRead_total (by omega) s
  | hdr =>
    have hsize : s.block.wSize = BitVec.ofNat 32 hdrLen := by
      cases hc : s.block.cfl <;> simp_all [Machine.callOk]
    rw [hsize] at hi
    exact storeByteAt_total (by simpa [hdrLen] using hi) s
  | trl =>
    have hsize : s.block.wSize = BitVec.ofNat 32 trlLen := by
      cases hc : s.block.cfl <;> simp_all [Machine.callOk]
    rw [hsize] at hi
    refine storeByteAt_total (by unfold trailer; split <;> simpa [trlLen] using hi) s
  | cmd0f =>
    have hsize : s.block.wSize = BitVec.ofNat 32 cmd0Len := by
      cases hc : s.block.cfl <;> simp_all [Machine.callOk]
    rw [hsize] at hi
    exact storeByteAt_total (by simpa [cmd0Len, cmd0Frame] using hi) s
  | resp => cases hc : s.block.cfl <;> simp_all [Machine.callOk]

/-! ## Waits, forward -/

theorem waitPoll_of_holds {t : StaTest} {s : State} (onHold : State → State)
    (h : t.holds s.cfg (readSta s).1 = true) : waitPoll t onHold s = .next (onHold (readSta s).2) := by
  unfold waitPoll; exact if_pos h

/-- The state after a poll of a wait that fails (R112). -/
def pollFailed (s : State) : State :=
  (readSta s).2.withBlock { s.block with
    polls := s.block.polls + 1
    phase := if pollsSpent s.cfg (s.block.polls + 1) then .giveUp else s.block.phase }

theorem pollFailed_phase_of_spent {s : State} (h : pollsSpent s.cfg (s.block.polls + 1) = true) :
    (pollFailed s).block.phase = .giveUp := if_pos h

theorem pollFailed_phase_of_left {s : State} (h : pollsSpent s.cfg (s.block.polls + 1) = false) :
    (pollFailed s).block.phase = s.block.phase := if_neg fun hs => absurd (h.symm.trans hs) (by simp)

theorem waitPoll_of_fails {t : StaTest} {s : State} (onHold : State → State)
    (h : t.holds s.cfg (readSta s).1 = false) : waitPoll t onHold s = .next (pollFailed s) := by
  unfold waitPoll pollFailed
  simp only [h, Bool.false_eq_true, if_false]
  cases hp : pollsSpent s.cfg (s.block.polls + 1) with
  | true => exact if_pos hp
  | false => exact if_neg fun hs => absurd (hp.symm.trans hs) (by simp)

/-! ## The run of a request under a stuck peripheral -/

/-- A stuck peripheral takes no step (R47). -/
theorem breathe_of_stuck {s : State} (h : s.stuck) :
    ∃ t, breathe s = .next t ∧ SameButTapes s t ∧ t.stuck := by
  unfold breathe
  split
  · exact ⟨s, rfl, SameButTapes.refl s, h⟩
  · obtain ⟨hitems, hrest⟩ := h
    have hdraw : (drawSched s).1 = 0 ∧ (drawSched s).2.stuck := by
      unfold drawSched Tape.draw State.stuck
      cases hl : s.env.sched.items with
      | nil => exact ⟨by simp [hrest], by simp [hl, hrest]⟩
      | cons k l =>
        rw [hl] at hitems
        exact ⟨hitems k (by simp), fun j hj => hitems j (List.mem_cons_of_mem k hj), hrest⟩
    refine ⟨(drawSched s).2, ?_, drawSched_same s, hdraw.2⟩
    simp only [hdraw.1]
    rfl

/-- XCH reads 0, so that setting it starts a frame (R45). -/
def XchOff (s : State) : Prop := s.periph.ctl &&& s.cfg.xchMask = 0

/-- No frame runs and the TX FIFO is empty (R205). -/
def Settled (s : State) : Prop := s.periph.frame = none ∧ s.periph.tx = []

/-- Where a request stands between its acceptance and the wait of its first burst that never holds (R113): what the
sequencer's state says of the peripheral while that takes no step. -/
inductive StuckAt (s : State) : Prop
  | check (i : Instr) (hw : s.block.wte = .none) (hc : s.block.cfl = .check) (hop : s.block.op = i.op)
      (hbuf : s.block.buf = i.buf) (hsize : s.block.size = i.size) (hm : movesBytes i = true)
      (hs : Settled s) (hf : s.staleFits)
  | firstChunk (hw : s.block.wte = .none) (hc : s.block.cfl = .c53Top) (hrem : s.block.rem ≠ 0)
      (hs : Settled s) (hf : s.staleFits)
  | call (hw : s.block.wte = .none)
      (hc : (s.block.cfl = .sendTop ∨ s.block.cfl = .recvTop) ∧ s.block.size ≠ 0
        ∨ s.block.cfl = .c0Send ∨ s.block.cfl = .c53Hdr)
      (hs : Settled s) (hf : s.staleFits)
  | top (hw : s.block.wte = .top) (hne : s.block.wOff ≠ s.block.wSize) (hs : Settled s) (hf : s.staleFits)
  | trigOff (hw : s.block.wte = .b1TrigOff) (hs : Settled s) (hf : s.staleFits)
  | drain (hw : s.block.wte = .b2Drain) (hs : Settled s) (hx : XchOff s) (hp : s.block.phase ≠ .giveUp)
      (hl : s.block.phase = .last → s.periph.rx ≠ [])
      (hf : ∀ n, s.cfg.pollLimit = some n → s.block.polls.toNat + s.periph.rx.length ≤ n)
  | txe (hw : s.block.wte = .b3Txe) (hs : Settled s) (hx : XchOff s) (hr : s.periph.rx = [])
      (hp : s.block.phase ≠ .giveUp)
  | fl (hw : s.block.wte = .b4Fl) (hs : Settled s) (hx : XchOff s) (hr : s.periph.rx = [])
      (hl : s.block.phase = .last → s.block.latch &&& s.cfg.xchMask = 0)
  | words (hw : s.block.wte = .b5Words) (hn : s.periph.frame = none) (hx : XchOff s) (hr : s.periph.rx = [])
      (ht : s.periph.tx.length = s.block.wj.toNat) (hp : s.block.phase ≠ .giveUp)
  | trigOn (hw : s.block.wte = .b6TrigOn) (hn : s.periph.frame = none) (hx : XchOff s) (hr : s.periph.rx = [])
  | rx (hw : s.block.wte = .b7Rx) (hr : s.periph.rx = []) (hn : ∃ f, s.periph.frame = some f ∧ f.i = 0)
      (hx : s.periph.ctl &&& s.cfg.xchMask = s.cfg.xchMask)
      (hp : s.block.phase = .start ∧ (∀ n, s.cfg.pollLimit = some n → s.block.polls.toNat < n)
        ∨ s.block.phase = .giveUp ∧ s.cfg.pollLimit = some s.block.polls.toNat)

/-- The actions of a word of B5 that are behind its phase. -/
def phaseSpent : Phase → Nat
  | .start => 0
  | .byte k => k.val + 1
  | .last => 5
  | .giveUp => 6

/-- A bound on the ticks left to the end, when POLL_LIMIT is a number. -/
def stuckLeft (s : State) : Nat :=
  match s.block.wte with
  | .none => s.cfg.pollLimit.getD 0 + 2 * s.periph.rx.length
    + if s.block.cfl = .check then 62 else if s.block.cfl = .c53Top then 61 else 60
  | .top => s.cfg.pollLimit.getD 0 + 2 * s.periph.rx.length + 59
  | .b1TrigOff => s.cfg.pollLimit.getD 0 + 2 * s.periph.rx.length + (if s.block.phase = .last then 57 else 58)
  | .b2Drain => s.cfg.pollLimit.getD 0 + 2 * s.periph.rx.length + (if s.block.phase = .last then 55 else 56)
  | .b3Txe => s.cfg.pollLimit.getD 0 + 54
  | .b4Fl => s.cfg.pollLimit.getD 0 + (if s.block.phase = .last then 52 else 53)
  | .b5Words => s.cfg.pollLimit.getD 0 + 3 + (6 * (8 - s.block.wj.toNat) - phaseSpent s.block.phase)
  | .b6TrigOn => s.cfg.pollLimit.getD 0 + (if s.block.phase = .last then 2 else 3)
  | .b7Rx => if s.block.phase = .giveUp then 1 else s.cfg.pollLimit.getD 0 - s.block.polls.toNat + 1
  | .next => 0

/-- One action that brings the burst further. -/
structure StuckAct (s t : State) : Prop where
  act : act s = .next t
  sched : t.env.sched = s.env.sched
  mem : t.mem = s.mem
  place : StuckAt t
  less : s.cfg.pollLimit ≠ none → stuckLeft t < stuckLeft s

theorem act_eq_of_wte {s : State} {w : Wte} (hw : s.block.wte = w) (hn : w ≠ .none) : act s = wteAct s :=
  act_eq_wteAct (by rw [hw]; exact hn)

/-! ### CHECK and the call -/

theorem stuckAct_check {s : State} {i : Instr} (hw : s.block.wte = .none) (hc : s.block.cfl = .check)
    (hop : s.block.op = i.op) (hbuf : s.block.buf = i.buf) (hsize : s.block.size = i.size) (hm : movesBytes i = true)
    (hs : Settled s) (hf : s.staleFits) : ∃ t, StuckAct s t := by
  simp only [movesBytes, Bool.and_eq_true] at hm
  obtain ⟨hwell, hpos⟩ := hm
  have hgood : i.usesBuffer = true → badBuffer s.block.buf s.block.size = false ∧ s.block.size ≠ 0 := by
    intro hu
    rw [hbuf, hsize, badBuffer_eq hu, hwell]
    exact ⟨rfl, by simpa [hu] using hpos⟩
  have hact : act s = .next (checkRequest s) := by rw [act_eq_cflAct hw, cflAct, hc]
  have hleft : stuckLeft s = s.cfg.pollLimit.getD 0 + 2 * s.periph.rx.length + 62 := by simp [stuckLeft, hw, hc]
  have hcheck := hact
  unfold checkRequest at hcheck
  rw [hop, hbuf, hsize, decodeReq_fields] at hcheck
  have hbuffer : ∀ c, c = .sendTop ∨ c = .recvTop → i.usesBuffer = true → act s = .next (checkBuffer c s) →
      ∃ t, StuckAct s t := by
    intro c hcc hu ha
    obtain ⟨hb, hne⟩ := hgood hu
    rw [checkBuffer, if_neg (by simp [hb])] at ha
    refine ⟨_, ha, rfl, rfl, .call hw (.inl ⟨hcc, hne⟩) hs hf, fun _ => ?_⟩
    rw [hleft]
    rcases hcc with rfl | rfl <;> simp [stuckLeft, goCfl, hw]
  have hchunk : i.usesBuffer = true → act s = .next (checkC53 s) → ∃ t, StuckAct s t := by
    intro hu ha
    obtain ⟨hb, hne⟩ := hgood hu
    rw [checkC53, if_neg (by simp [hb])] at ha
    refine ⟨_, ha, rfl, rfl, .firstChunk hw rfl hne hs hf, fun _ => ?_⟩
    rw [hleft]
    simp [stuckLeft, goCfl, hw]
  cases i with
  | send b n => exact hbuffer .sendTop (.inl rfl) rfl hcheck
  | recv b n => exact hbuffer .recvTop (.inr rfl) rfl hcheck
  | cmd0 b n =>
    refine ⟨_, hcheck, rfl, rfl, .call hw (.inr (.inl rfl)) hs hf, fun _ => ?_⟩
    rw [hleft]
    simp [stuckLeft, goCfl, hw]
  | cmd53r b n => exact hchunk rfl hcheck
  | cmd53w b n => exact hchunk rfl hcheck
  | rsv5 b n => cases hwell
  | rsv6 b n => cases hwell
  | rsv7 b n => cases hwell

theorem stuckAct_chunk {s : State} (hw : s.block.wte = .none) (hc : s.block.cfl = .c53Top) (hrem : s.block.rem ≠ 0)
    (hs : Settled s) (hf : s.staleFits) : ∃ t, StuckAct s t := by
  have hact : act s = .next (c53Top s) := by rw [act_eq_cflAct hw, cflAct, hc]
  rw [c53Top, if_neg hrem] at hact
  refine ⟨_, hact, rfl, rfl, .call hw (.inr (.inr rfl)) hs hf, fun _ => ?_⟩
  simp [stuckLeft, goCfl, hw, hc]

theorem stuckAct_call {s : State} (hw : s.block.wte = .none)
    (hc : (s.block.cfl = .sendTop ∨ s.block.cfl = .recvTop) ∧ s.block.size ≠ 0
      ∨ s.block.cfl = .c0Send ∨ s.block.cfl = .c53Hdr) (hs : Settled s) (hf : s.staleFits) : ∃ t, StuckAct s t := by
  have hcall : ∀ d w base n, n ≠ 0 → s.block.cfl ≠ .check → s.block.cfl ≠ .c53Top →
      act s = .next (callWte d w base n s) → ∃ t, StuckAct s t := by
    intro d w base n hn h1 h2 ha
    refine ⟨_, ha, rfl, rfl, .top rfl (Ne.symm hn) hs hf, fun _ => ?_⟩
    simp [stuckLeft, callWte, hw, h1, h2]
  have hact := act_eq_cflAct hw
  unfold cflAct at hact
  rcases hc with ⟨hc | hc, hne⟩ | hc | hc <;> simp only [hc] at hact
  · exact hcall _ _ _ _ hne (by simp [hc]) (by simp [hc]) hact
  · exact hcall _ _ _ _ hne (by simp [hc]) (by simp [hc]) hact
  · exact hcall _ _ _ _ (by decide) (by simp [hc]) (by simp [hc]) hact
  · exact hcall _ _ _ _ (by decide) (by simp [hc]) (by simp [hc]) hact

theorem stuckAct_top {s : State} (hw : s.block.wte = .top) (hne : s.block.wOff ≠ s.block.wSize) (hs : Settled s)
    (hf : s.staleFits) : ∃ t, StuckAct s t := by
  have hact : act s = .next (wTop s) := by rw [act_eq_of_wte hw (by simp), wteAct, hw]
  rw [wTop, if_neg hne] at hact
  refine ⟨_, hact, rfl, rfl, .trigOff rfl hs hf, fun _ => ?_⟩
  simp [stuckLeft, goWte, hw]

/-! ### The writes of CTL -/

theorem writeCtl_sched (v : Word) (s : State) : (writeCtl v s).env.sched = s.env.sched := by
  unfold writeCtl writeCtlEffect
  split
  · split <;> rfl
  · split <;> rfl

theorem writeCtl_cfg (v : Word) (s : State) : (writeCtl v s).cfg = s.cfg := (writeCtl_actOnly v s).cfg

/-- CTL.XCH after a write is what was written (R40). -/
theorem writeCtl_xch {s : State} (hc : s.cfg.wf = true) (v : Word) :
    (writeCtl v s).periph.ctl &&& s.cfg.xchMask = v &&& s.cfg.xchMask := by
  rw [writeCtl_ctl, and_not_clear_and_xch hc]

/-- A CTL write with XCH = 0 leaves a settled peripheral settled and its RX FIFO no longer. -/
theorem writeCtl_settled {v : Word} {s : State} (hc : s.cfg.wf = true) (hs : Settled s)
    (hv : v &&& s.cfg.xchMask = 0) :
    Settled (writeCtl v s) ∧ XchOff (writeCtl v s) ∧ (writeCtl v s).periph.rx.length ≤ s.periph.rx.length := by
  refine ⟨⟨writeCtl_frame_none hs.1 fun h => ?_, ?_⟩, ?_, ?_⟩
  · exact (Config.wf_xch hc).1 (h.2.symm.trans hv)
  · rw [writeCtl_tx, hs.2, ite_self]
  · rw [XchOff, writeCtl_cfg, writeCtl_xch hc, hv]
  · rw [writeCtl_rx]
    split
    · exact Nat.zero_le _
    · exact le_rfl

theorem trigOff_of_not_last {s : State} (h : s.block.phase ≠ .last) : trigOff s = ctlRead s := by
  unfold trigOff; split
  · contradiction
  all_goals rfl

theorem setFl_of_not_last {s : State} (h : s.block.phase ≠ .last) : setFl s = ctlRead s := by
  unfold setFl; split
  · contradiction
  all_goals rfl

theorem trigOn_of_not_last {s : State} (h : s.block.phase ≠ .last) : trigOn s = ctlRead s := by
  unfold trigOn; split
  · contradiction
  all_goals rfl

theorem stuckAct_trigOff {s : State} (hcfg : s.cfg.wf = true) (hw : s.block.wte = .b1TrigOff) (hs : Settled s)
    (hf : s.staleFits) : ∃ t, StuckAct s t := by
  have hact : act s = .next (trigOff s) := by rw [act_eq_of_wte hw (by simp), wteAct, hw]
  by_cases hp : s.block.phase = .last
  · obtain ⟨hs', hx', hrx⟩ := writeCtl_settled hcfg hs (ctlTrigOff_and_xch s.cfg s.block.latch)
    rw [trigOff, hp] at hact
    refine ⟨_, hact, writeCtl_sched _ s, writeCtl_mem _ s, .drain rfl hs' hx' (by simp [goPoll]) (by simp [goPoll]) ?_,
      fun _ => ?_⟩
    · intro n hn
      have hle := hf n ((writeCtl_cfg _ s) ▸ hn)
      change 0 + (writeCtl (ctlTrigOff s.cfg s.block.latch) s).periph.rx.length ≤ n
      omega
    · simp only [stuckLeft, goPoll, hw, hp, State.withBlock_block, State.withBlock_periph, State.withBlock_cfg,
        writeCtl_cfg]
      simp; omega
  · rw [trigOff_of_not_last hp] at hact
    refine ⟨_, hact, rfl, rfl, .trigOff hw hs hf, fun _ => ?_⟩
    simp [stuckLeft, ctlRead, readCtl, hw, hp]

theorem stuckAct_fl {s : State} (hcfg : s.cfg.wf = true) (hw : s.block.wte = .b4Fl) (hs : Settled s) (hx : XchOff s)
    (hr : s.periph.rx = []) (hl : s.block.phase = .last → s.block.latch &&& s.cfg.xchMask = 0) : ∃ t, StuckAct s t := by
  have hact : act s = .next (setFl s) := by rw [act_eq_of_wte hw (by simp), wteAct, hw]
  by_cases hp : s.block.phase = .last
  · obtain ⟨hs', hx', hrx⟩ := writeCtl_settled (v := ctlFrameLen s.block.latch s.block.blen) hcfg hs
      ((ctlFrameLen_and_xch hcfg _ _).trans (hl hp))
    rw [setFl, hp] at hact
    rw [hr] at hrx
    refine ⟨_, hact, writeCtl_sched _ s, writeCtl_mem _ s, .words rfl hs'.1 hx' (List.length_eq_zero_iff.mp ?_) ?_
      (by simp [goWords]), fun _ => ?_⟩
    · exact Nat.le_zero.mp hrx
    · simp [goWords, hs'.2]
    · simp only [stuckLeft, goWords, hw, hp, State.withBlock_block, State.withBlock_cfg, writeCtl_cfg]
      simp [phaseSpent]
  · rw [setFl_of_not_last hp] at hact
    refine ⟨_, hact, rfl, rfl, .fl hw hs hx hr fun _ => ?_, fun _ => ?_⟩
    · exact (and_not_clear_and_xch hcfg _).trans hx
    · simp [stuckLeft, ctlRead, readCtl, hw, hp]

theorem stuckAct_trigOn {s : State} (hcfg : s.cfg.wf = true) (hw : s.block.wte = .b6TrigOn)
    (hn : s.periph.frame = none) (hx : XchOff s) (hr : s.periph.rx = []) : ∃ t, StuckAct s t := by
  have hact : act s = .next (trigOn s) := by rw [act_eq_of_wte hw (by simp), wteAct, hw]
  by_cases hp : s.block.phase = .last
  · have hset := ctlTrigOn_and_xch s.cfg s.block.latch
    have hrx : (writeCtl (ctlTrigOn s.cfg s.block.latch) s).periph.rx = [] := by rw [writeCtl_rx, hr, ite_self]
    rw [trigOn, hp] at hact
    refine ⟨_, hact, writeCtl_sched _ s, writeCtl_mem _ s,
      .rx rfl hrx ⟨_, writeCtl_frame_started (Config.wf_xch hcfg).1 hx hset, rfl⟩ ?_ (.inl ⟨rfl, fun n hlim => ?_⟩),
      fun _ => ?_⟩
    · change (writeCtl _ s).periph.ctl &&& (writeCtl _ s).cfg.xchMask = (writeCtl _ s).cfg.xchMask
      rw [writeCtl_cfg, writeCtl_xch hcfg, hset]
    · exact (Config.wf_poll hcfg ((writeCtl_cfg _ s) ▸ hlim)).1
    · simp only [stuckLeft, goWords, hw, hp, State.withBlock_block, State.withBlock_cfg, writeCtl_cfg]
      simp
  · rw [trigOn_of_not_last hp] at hact
    refine ⟨_, hact, rfl, rfl, .trigOn hw hn hx hr, fun _ => ?_⟩
    simp [stuckLeft, ctlRead, readCtl, hw, hp]

/-! ### The drain and the waits -/

theorem drain_of_poll {s : State} (h : s.block.phase ≠ .last) (h' : s.block.phase ≠ .giveUp) :
    drain s = .next (drainPoll s) := by
  unfold drain; split
  · contradiction
  · rfl
  · rfl
  · contradiction

/-- The poll count does not wrap below a budget that is a number (R186). -/
theorem toNat_succ_of_lt {x : Word} {n : Nat} (h : x.toNat < n) (hn : n < 2 ^ 32) : (x + 1).toNat = x.toNat + 1 := by
  rw [BitVec.toNat_add, Nat.mod_eq_of_lt]
  · rfl
  · change x.toNat + 1 < 2 ^ 32; omega

/-- The polls are not used up while the stale words left fit in what is left of the budget (R115). -/
theorem pollsSpent_eq_false {c : Config} {polls : Word} (h : ∀ n, c.pollLimit = some n → polls.toNat < n) :
    pollsSpent c polls = false := by
  unfold pollsSpent
  split
  · rfl
  · rename_i n hn
    exact decide_eq_false (Nat.not_le.mpr (h n hn))

theorem stuckAct_drain {s : State} (hcfg : s.cfg.wf = true) (hw : s.block.wte = .b2Drain) (hs : Settled s)
    (hx : XchOff s) (hp : s.block.phase ≠ .giveUp) (hl : s.block.phase = .last → s.periph.rx ≠ [])
    (hf : ∀ n, s.cfg.pollLimit = some n → s.block.polls.toNat + s.periph.rx.length ≤ n) : ∃ t, StuckAct s t := by
  have hact : act s = Machine.drain s := by rw [act_eq_of_wte hw (by simp), wteAct, hw]
  by_cases hlast : s.block.phase = .last
  · obtain ⟨w, rest, hrx⟩ := List.exists_cons_of_ne_nil (hl hlast)
    rw [Machine.drain, hlast] at hact
    simp only [readRxd_of_cons hrx, andThen_next] at hact
    refine ⟨_, hact, rfl, rfl, .drain hw hs hx (by simp) (by simp) fun n hn => ?_, fun _ => ?_⟩
    · have hle := hf n hn
      have hlt := (Config.wf_poll hcfg hn).2
      rw [hrx, List.length_cons] at hle
      change (s.block.polls + 1).toNat + rest.length ≤ n
      rw [toNat_succ_of_lt (n := n) (by omega) hlt]
      omega
    · simp [stuckLeft, hw, hlast, hrx]; omega
  · rw [drain_of_poll hlast hp] at hact
    have hrxe : (readSta s).1.getLsbD s.cfg.rxeBit = rxEmpty s.periph := staValue_rxe hcfg s.periph _
    cases hr : s.periph.rx with
    | nil =>
      have hempty : rxEmpty s.periph = true := by simp [rxEmpty, hr]
      simp only [drainPoll, hrxe, hempty, if_true] at hact
      refine ⟨_, hact, rfl, rfl, .txe rfl hs hx hr (by simp [goPoll]), fun _ => ?_⟩
      simp [stuckLeft, goPoll, readSta, drawStaOther, hw, hlast]; omega
    | cons w rest =>
      have hfull : rxEmpty s.periph = false := by simp [rxEmpty, hr]
      have hleft : pollsSpent s.cfg s.block.polls = false := pollsSpent_eq_false fun n hn => by
        have hle := hf n hn
        rw [hr, List.length_cons] at hle
        omega
      simp only [drainPoll, hrxe, hfull, hleft, Bool.false_eq_true, if_false] at hact
      refine ⟨_, hact, rfl, rfl, .drain hw hs hx (by simp [goPhase]) (fun _ => ?_) hf, fun _ => ?_⟩
      · simp [goPhase, readSta, drawStaOther, hr]
      · simp [stuckLeft, goPhase, readSta, drawStaOther, hw, hlast]

theorem waitTxe_of_poll {s : State} (h : s.block.phase ≠ .giveUp) : waitTxe s = waitPoll .txe (goWte .b4Fl) s := by
  unfold waitTxe; split
  · contradiction
  all_goals rfl

theorem stuckAct_txe {s : State} (hcfg : s.cfg.wf = true) (hw : s.block.wte = .b3Txe) (hs : Settled s) (hx : XchOff s)
    (hr : s.periph.rx = []) (hp : s.block.phase ≠ .giveUp) : ∃ t, StuckAct s t := by
  have hact : act s = waitTxe s := by rw [act_eq_of_wte hw (by simp), wteAct, hw]
  have hhold : StaTest.txe.holds s.cfg (readSta s).1 = true := by
    rw [show (readSta s).1 = staValue s.cfg s.periph _ from rfl, (staTestsSayWhatTheFifosHold _ _ _ hcfg).1, hs.2]
    rfl
  rw [waitTxe_of_poll hp, waitPoll_of_holds _ hhold] at hact
  refine ⟨_, hact, rfl, rfl, .fl rfl hs hx hr (by simp [goWte]), fun _ => ?_⟩
  simp [stuckLeft, goWte, readSta, drawStaOther, hw]

/-- The wait of B7 for a frame that takes no step never holds: the poll is counted, or it is the last (R112). -/
theorem stuckAct_rx {s : State} (hcfg : s.cfg.wf = true) (hw : s.block.wte = .b7Rx) (hr : s.periph.rx = [])
    (hn : ∃ f, s.periph.frame = some f ∧ f.i = 0) (hx : s.periph.ctl &&& s.cfg.xchMask = s.cfg.xchMask)
    (hp : s.block.phase = .start) (hpolls : ∀ n, s.cfg.pollLimit = some n → s.block.polls.toNat < n) :
    ∃ t, StuckAct s t := by
  have hact : act s = rxWords s := by rw [act_eq_of_wte hw (by simp), wteAct, hw]
  have hfail : StaTest.notRxe.holds s.cfg (readSta s).1 = false := by
    rw [show (readSta s).1 = staValue s.cfg s.periph _ from rfl, (staTestsSayWhatTheFifosHold _ _ _ hcfg).2.2, hr]
    rfl
  rw [rxWords, hp] at hact
  simp only [waitPoll_of_fails _ hfail] at hact
  have hcount : ∀ n, s.cfg.pollLimit = some n → (s.block.polls + 1).toNat = s.block.polls.toNat + 1 :=
    fun n hlim => toNat_succ_of_lt (hpolls n hlim) (Config.wf_poll hcfg hlim).2
  cases hspent : pollsSpent s.cfg (s.block.polls + 1) with
  | false =>
    have hbelow : ∀ n, s.cfg.pollLimit = some n → (s.block.polls + 1).toNat < n := by
      intro n hlim
      simpa [pollsSpent, hlim] using hspent
    refine ⟨_, hact, rfl, rfl, .rx hw hr hn hx (.inl ⟨(pollFailed_phase_of_left hspent).trans hp, hbelow⟩),
      fun hlim => ?_⟩
    · obtain ⟨n, hlim⟩ := Option.ne_none_iff_exists'.mp hlim
      have hlt := hbelow n hlim
      rw [hcount n hlim] at hlt
      simp only [stuckLeft, pollFailed, State.withBlock_block, State.withBlock_cfg, hspent, hw, hp, hcount n hlim]
      simp [readSta, drawStaOther, hlim]; omega
  | true =>
    obtain ⟨n, hlim, hge⟩ : ∃ n, s.cfg.pollLimit = some n ∧ n ≤ (s.block.polls + 1).toNat := by
      cases hlim : s.cfg.pollLimit with
      | none => simp [pollsSpent, hlim] at hspent
      | some n => exact ⟨n, rfl, by simpa [pollsSpent, hlim] using hspent⟩
    have hlt := hpolls n hlim
    have hn' : n = (s.block.polls + 1).toNat := by rw [hcount n hlim] at hge ⊢; omega
    refine ⟨_, hact, rfl, rfl, .rx hw hr hn hx (.inr ⟨pollFailed_phase_of_spent hspent, ?_⟩), fun _ => ?_⟩
    · exact hn' ▸ hlim
    · simp only [stuckLeft, pollFailed, State.withBlock_block, State.withBlock_cfg, hspent, hw, hp]
      simp [hlim]; omega

/-! ### The words of the burst -/

/-- After byte k of a word of B5 comes the next action of the same word. -/
theorem byteDone_phaseSpent (k : Fin 4) (b : Block) :
    ∃ p, byteDone k { b with phase := .last } b = { b with phase := p } ∧ p ≠ .giveUp
      ∧ phaseSpent p = phaseSpent (.byte k) + 1 := by
  rcases byteDone_cases k { b with phase := .last } b with ⟨hk, he⟩ | ⟨hk, he⟩
  · exact ⟨_, he, by simp, rfl⟩
  · exact ⟨_, he, by simp, by simp [phaseSpent, hk]⟩

/-- A byte of a send is packed, whatever it is. -/
theorem packByte_total {s : State} {k : Fin 4} (h : BlockOk s.block) (hw : s.block.wte = .b5Words)
    (hd : s.block.wDir = .send) :
    ∃ u v p, packByte k s = .next (u.withBlock { s.block with latch := v, phase := p }) ∧ SameButBytes s u
      ∧ p ≠ .giveUp ∧ phaseSpent p = phaseSpent (.byte k) + 1 := by
  obtain ⟨⟨-, -, hle⟩, -⟩ := h.burst (.inl hw)
  have hdone : ∀ (u : State) (v : Word), ∃ p,
      nextByte k (goPhase .last) (u.withBlock { s.block with latch := v })
          = u.withBlock { s.block with latch := v, phase := p }
        ∧ p ≠ .giveUp ∧ phaseSpent p = phaseSpent (.byte k) + 1 := by
    intro u v
    obtain ⟨p, he, hp⟩ := byteDone_phaseSpent k { s.block with latch := v }
    exact ⟨p, (nextByte_eq k rfl).trans (congrArg (State.withBlock u) he), hp⟩
  unfold packByte
  by_cases hx : burstPos s.block k < s.block.blen.toNat
  · obtain ⟨v, u, hv, hu⟩ := srcByte_total h (by simp [hw]) hd (i := s.block.wOff.toNat + burstPos s.block k) (by omega)
    obtain ⟨p, he, hp⟩ := hdone u (setByte s.block.latch k v)
    refine ⟨u, setByte s.block.latch k v, p, ?_, hu, hp⟩
    simp only [hx, if_true, hv, andThen_next, hu.block]
    exact congrArg _ he
  · obtain ⟨p, he, hp⟩ := hdone s (setByte s.block.latch k 0)
    refine ⟨s, setByte s.block.latch k 0, p, ?_, ⟨rfl, rfl, rfl, rfl, rfl⟩, hp⟩
    simp only [hx, if_false]
    exact congrArg _ he

theorem stuckAct_words {s : State} (hcfg : s.cfg.wf = true) (hok : BlockOk s.block) (hph : PhaseOk s.block)
    (hw : s.block.wte = .b5Words) (hn : s.periph.frame = none) (hx : XchOff s) (hr : s.periph.rx = [])
    (ht : s.periph.tx.length = s.block.wj.toNat) (hp : s.block.phase ≠ .giveUp) : ∃ t, StuckAct s t := by
  have hact : act s = txWords s := by rw [act_eq_of_wte hw (by simp), wteAct, hw]
  obtain ⟨⟨-, hmax, -⟩, hj⟩ := hok.burst (.inl hw)
  have hwords : burstWords s.block ≤ 8 := by unfold burstWords; unfold burstMax at hmax; omega
  have hdepth := (Config.wf_depths hcfg).1
  unfold txWords at hact
  cases hphase : s.block.phase with
  | start =>
    have hhold : StaTest.notTxf.holds s.cfg (readSta s).1 = true := by
      rw [show (readSta s).1 = staValue s.cfg s.periph _ from rfl, (staTestsSayWhatTheFifosHold _ _ _ hcfg).2.1]
      exact decide_eq_true (by omega)
    simp only [hphase, waitPoll_of_holds _ hhold, beginTxWord, show (readSta s).2.block = s.block from rfl] at hact
    cases hd : s.block.wDir <;> simp only [hd] at hact <;>
    refine ⟨_, hact, rfl, rfl, .words hw hn hx hr ht (by simp [goPhase]), fun _ => ?_⟩ <;>
    simp only [stuckLeft, goPhase, State.withBlock_block, State.withBlock_cfg, hw, hphase, phaseSpent] <;>
    simp [readSta, drawStaOther] <;> omega
  | byte k =>
    obtain ⟨u, v, p, hu, hsame, hp', hspent⟩ := packByte_total (k := k) hok hw (hph.1 k hw hphase)
    simp only [hphase, hu] at hact
    refine ⟨_, hact, hsame.sched, hsame.mem, .words hw ?_ ?_ ?_ ?_ hp', fun _ => ?_⟩
    · exact (congrArg Periph.frame hsame.periph).trans hn
    · change u.periph.ctl &&& u.cfg.xchMask = 0
      rw [hsame.periph, hsame.cfg, hx]
    · exact (congrArg Periph.rx hsame.periph).trans hr
    · exact (congrArg (fun q => q.tx.length) hsame.periph).trans ht
    · simp only [stuckLeft, State.withBlock_block, State.withBlock_cfg, hsame.cfg, hw, hphase, hspent]
      simp only [phaseSpent]; omega
  | last =>
    have hroom : s.periph.tx.length < s.cfg.txDepth := by omega
    simp only [hphase, writeTxd_of_room _ hroom, andThen_next, nextWord_goWte, State.log_block,
      State.withPeriph_block] at hact
    have hsucc := toNat_wj_succ hmax hj
    rcases wordDone_cases .b6TrigOn s.block with ⟨_, he⟩ | ⟨_, he⟩
    · rw [he] at hact
      refine ⟨_, hact, rfl, rfl, .words hw hn hx hr ?_ (by simp), fun _ => ?_⟩
      · simp only [State.withBlock_periph, State.withBlock_block, State.log_periph, State.withPeriph_periph,
          List.length_append, List.length_cons, List.length_nil, ht]
        exact hsucc.symm
      · simp only [stuckLeft, State.withBlock_block, State.withBlock_cfg, hw, hphase, hsucc, phaseSpent]
        simp; omega
    · rw [he] at hact
      refine ⟨_, hact, rfl, rfl, .trigOn rfl hn hx hr, fun _ => ?_⟩
      simp only [stuckLeft, State.withBlock_block, State.withBlock_cfg, hw, hphase, phaseSpent]
      simp; omega
  | giveUp => exact absurd hphase hp

/-- Every action of a request under a stuck peripheral brings its first burst further, until the raise. -/
theorem StuckAt.act {s : State} (h : StuckAt s) (hcfg : s.cfg.wf = true) (hok : BlockOk s.block)
    (hph : PhaseOk s.block) :
    (∃ t, StuckAct s t)
    ∨ (s.block.wte = .b7Rx ∧ s.block.phase = .giveUp ∧ s.cfg.pollLimit = some s.block.polls.toNat
        ∧ (∃ f, s.periph.frame = some f ∧ f.i = 0) ∧ s.periph.ctl &&& s.cfg.xchMask = s.cfg.xchMask) := by
  cases h with
  | check i hw hc hop hbuf hsize hm hs hf => exact .inl (stuckAct_check hw hc hop hbuf hsize hm hs hf)
  | firstChunk hw hc hrem hs hf => exact .inl (stuckAct_chunk hw hc hrem hs hf)
  | call hw hc hs hf => exact .inl (stuckAct_call hw hc hs hf)
  | top hw hne hs hf => exact .inl (stuckAct_top hw hne hs hf)
  | trigOff hw hs hf => exact .inl (stuckAct_trigOff hcfg hw hs hf)
  | drain hw hs hx hp hl hf => exact .inl (stuckAct_drain hcfg hw hs hx hp hl hf)
  | txe hw hs hx hr hp => exact .inl (stuckAct_txe hcfg hw hs hx hr hp)
  | fl hw hs hx hr hl => exact .inl (stuckAct_fl hcfg hw hs hx hr hl)
  | words hw hn hx hr ht hp => exact .inl (stuckAct_words hcfg hok hph hw hn hx hr ht hp)
  | trigOn hw hn hx hr => exact .inl (stuckAct_trigOn hcfg hw hn hx hr)
  | rx hw hr hn hx hp =>
    rcases hp with ⟨hp, hpolls⟩ | ⟨hp, hpolls⟩
    · exact .inl (stuckAct_rx hcfg hw hr hn hx hp hpolls)
    · exact .inr ⟨hw, hp, hpolls, hn, hx⟩

/-! ### The whole run -/

/-- What every tick of a request keeps under a stuck peripheral, from the state s it was made in. -/
structure StuckRun (s u : State) : Prop where
  cfg : u.cfg = s.cfg
  noReset : u.env.resets = []
  stuck : u.stuck
  mem : u.mem = s.mem
  wireOut : u.wireOut = s.wireOut
  busy : u.busy = true
  ok : BlockOk u.block
  phase : PhaseOk u.block
  place : StuckAt u

/-- The end of a request under a stuck peripheral, after n polls. -/
structure StuckEnd (s : State) (n : Nat) (t : State) : Prop where
  cfg : t.cfg = s.cfg
  mem : t.mem = s.mem
  wireOut : t.wireOut = s.wireOut
  busy : t.busy = false
  status : t.block.status = .deviceNotResponding
  polls : t.block.polls.toNat = n
  frame : ∃ f, t.periph.frame = some f ∧ f.i = 0
  xch : t.periph.ctl &&& t.cfg.xchMask = t.cfg.xchMask

/-- A draw of the pace changes nothing the burst rests on. -/
theorem StuckAt.drawn {s t : State} (h : StuckAt s) (k : SameButTapes s t) : StuckAt t ∧ stuckLeft t = stuckLeft s := by
  obtain ⟨c, b, x, p, m, q, g, e, l⟩ := s
  obtain ⟨c', b', x', p', m', q', g', e', l'⟩ := t
  obtain ⟨rfl, rfl, -, rfl, -⟩ := k
  refine ⟨?_, rfl⟩
  cases h with
  | check i hw hc hop hbuf hsize hm hs hf => exact .check i hw hc hop hbuf hsize hm hs hf
  | firstChunk hw hc hrem hs hf => exact .firstChunk hw hc hrem hs hf
  | call hw hc hs hf => exact .call hw hc hs hf
  | top hw hne hs hf => exact .top hw hne hs hf
  | trigOff hw hs hf => exact .trigOff hw hs hf
  | drain hw hs hx hp hl hf => exact .drain hw hs hx hp hl hf
  | txe hw hs hx hr hp => exact .txe hw hs hx hr hp
  | fl hw hs hx hr hl => exact .fl hw hs hx hr hl
  | words hw hn hx hr ht hp => exact .words hw hn hx hr ht hp
  | trigOn hw hn hx hr => exact .trigOn hw hn hx hr
  | rx hw hr hn hx hp => exact .rx hw hr hn hx hp

/-- A request stands there, so the block is busy. -/
theorem StuckAt.busy {s : State} (h : StuckAt s) (hok : BlockOk s.block) : s.busy = true := by
  rw [State.busy_iff]
  by_cases hn : s.block.wte = .none
  · cases h with
    | check i hw hc => simp [hc]
    | firstChunk hw hc => simp [hc]
    | call hw hc => rcases hc with ⟨hc | hc, -⟩ | hc | hc <;> simp [hc]
    | _ hw => simp [hw] at hn
  · intro hc
    have hcall := hok.callOk hn
    simp [Machine.callOk, hc] at hcall

/-- An action puts no byte on the link. -/
theorem ActOnly.wireOut {s t : State} (h : ActOnly s t) : t.wireOut = s.wireOut := by
  obtain ⟨es, hes, rfl | ⟨e, rfl, he⟩⟩ := h.trace
  · rw [State.wireOut, hes, List.append_nil]; rfl
  · have hnone : Event.wireOut? e = none := by
      cases e with
      | wire o i => exact absurd rfl (he o i)
      | _ => rfl
    rw [State.wireOut, hes, List.filterMap_append, List.filterMap_cons_none hnone, List.filterMap_nil, List.append_nil]
    rfl

/-- One tick of the run: it goes on, or it is the raise of DEVICE_NOT_RESPONDING (R112, R174). -/
theorem StuckRun.tick {s u : State} (hcfg : s.cfg.wf = true) (h : StuckRun s u) :
    ∃ t, tick u = .next t ∧ (StuckRun s t ∧ (s.cfg.pollLimit ≠ none → stuckLeft t < stuckLeft u)
      ∨ ∃ n, s.cfg.pollLimit = some n ∧ StuckEnd s n t) := by
  obtain ⟨v, hv, hsame, hstuck⟩ := breathe_of_stuck h.stuck
  obtain ⟨hat, hleft⟩ := h.place.drawn hsame
  have hcfgv : v.cfg = s.cfg := hsame.cfg.trans h.cfg
  have hok : BlockOk v.block := hsame.block ▸ h.ok
  have hph : PhaseOk v.block := hsame.block ▸ h.phase
  have hbusy := hat.busy hok
  have hwire : v.wireOut = s.wireOut := by rw [State.wireOut, hsame.trace]; exact h.wireOut
  rw [tick_of_no_reset h.noReset, hv, andThen_next]
  rcases hat.act (hcfgv ▸ hcfg) hok hph with ⟨t, ht⟩ | ⟨hw, hp, hpolls, hframe, hx⟩
  · obtain ⟨es, hm, -, -⟩ := act_acts hbusy ht.act
    have honly := act_actOnly ht.act
    have hokt := hm.keeps_ok hok
    refine ⟨t, ht.act, .inl ⟨⟨honly.cfg.trans hcfgv, ?_, ?_, ?_, honly.wireOut.trans hwire, ht.place.busy hokt, hokt,
      hm.keeps_phaseOk hph, ht.place⟩, fun hlim => ?_⟩⟩
    · rw [honly.resets, hsame.resets, h.noReset]
    · rw [State.stuck, ht.sched]; exact hstuck
    · rw [ht.mem, hsame.mem, h.mem]
    · rw [← hleft]; exact ht.less (hcfgv ▸ hlim)
  · have hact : Machine.act v = .next (endRequest .deviceNotResponding v) := by
      rw [act_eq_of_wte hw (by simp), wteAct, hw]
      simp only [rxWords, hp]; rfl
    refine ⟨_, hact, .inr ⟨_, hcfgv ▸ hpolls, hcfgv, hsame.mem.trans h.mem, ?_, rfl, rfl, rfl, hframe, hx⟩⟩
    exact (act_actOnly hact).wireOut.trans hwire

/-- A request that moves bytes, made to a stuck peripheral, starts the run. -/
theorem stuckRun_accept {i : Instr} {s : State} (h : s.Ready) (hstuck : s.stuck) (hstale : s.staleFits)
    (hm : movesBytes i = true) : StuckRun s (accept i.op i.buf i.size s) := by
  have hok := blockOk_accept i.op i.buf i.size s
  have hframe : (accept i.op i.buf i.size s).periph.frame = none := by
    rcases accept_frame i.op i.buf i.size s with ⟨-, he⟩ | ⟨f, w, hf, -⟩
    · exact he
    · rw [h.frameNone] at hf; cases hf
  refine ⟨by simp, by simpa using h.noReset, ?_, by simp, by simp [State.wireOut], by simp, hok,
    phaseOk_of_no_byte (by simp), .check i (by simp) (by simp) (by simp) (by simp) (by simp) hm
      ⟨hframe, by simpa using h.txNone⟩ ?_⟩
  · rw [State.stuck, accept_sched]; exact hstuck
  · unfold State.staleFits
    rw [accept_cfg, accept_rx]
    exact hstale

/-- With POLL_LIMIT a number the run ends when the ticks left are. -/
theorem StuckRun.ends {s : State} {n : Nat} (hcfg : s.cfg.wf = true) (hlim : s.cfg.pollLimit = some n) :
    ∀ (k : Nat) (u : State), StuckRun s u → stuckLeft u < k → ∃ t, runTicks k u = .next t ∧ StuckEnd s n t := by
  intro k
  induction k with
  | zero => intro u _ hk; omega
  | succ k ih =>
    intro u hu hk
    obtain ⟨t, ht, ⟨hrun, hless⟩ | ⟨m, hm, hend⟩⟩ := hu.tick hcfg
    · rw [runTicks_busy k hu.busy, ht, andThen_next]
      have hlt := hless (by simp [hlim])
      exact ih t hrun (by omega)
    · obtain rfl : m = n := Option.some.inj (hm.symm.trans hlim)
      rw [runTicks_busy k hu.busy, ht, andThen_next]
      exact ⟨t, runTicks_idle k hend.busy, hend⟩

theorem movesBytes_of {i : Instr} (hw : i.wellFormed = true) (hs : i.usesBuffer = true → i.size ≠ 0) :
    movesBytes i = true := by
  simp only [movesBytes, hw, Bool.true_and]
  cases hu : i.usesBuffer with
  | false => rfl
  | true => simpa using hs hu

/-- Settles O30: the run ends, since its ticks left decrease, and it ends with the raise. -/
theorem stuckPeripheralEndsDeviceNotResponding : Obligations.StuckPeripheralEndsDeviceNotResponding := by
  intro i s n hready hstale hstuck hlim hw hs
  have hrun := stuckRun_accept hready hstuck hstale (movesBytes_of hw hs)
  have hfuel : stuckLeft (accept i.op i.buf i.size s) < tickFuel := by
    have hn := (Config.wf_poll hready.cfgWf hlim).2
    have hrx := hstale n hlim
    simp only [stuckLeft, accept_block, accept_cfg, accept_rx, hlim, tickFuel]
    simp; omega
  obtain ⟨t, ht, hend⟩ := StuckRun.ends hready.cfgWf hlim tickFuel _ hrun hfuel
  have hidle : s.busy = false := (State.busy_false_iff s).mpr hready.cflIdle
  refine ⟨t, by rw [exec_of_idle i hidle]; exact ht, hend.busy, hend.status, hend.polls, hend.wireOut, hend.mem,
    hend.frame, ?_⟩
  rw [ctlValue, and_not_clear_and_xch (hend.cfg ▸ hready.cfgWf), hend.xch]

/-- With POLL_LIMIT = UNBOUNDED the run goes on for any number of ticks. -/
theorem StuckRun.goesOn {s : State} (hcfg : s.cfg.wf = true) (hlim : s.cfg.pollLimit = none) :
    ∀ (k : Nat) (u : State), StuckRun s u → ∃ t, runTicks k u = .next t ∧ StuckRun s t := by
  intro k
  induction k with
  | zero => intro u hu; exact ⟨u, rfl, hu⟩
  | succ k ih =>
    intro u hu
    obtain ⟨t, ht, ⟨hrun, -⟩ | ⟨n, hn, -⟩⟩ := hu.tick hcfg
    · rw [runTicks_busy k hu.busy, ht, andThen_next]
      exact ih t hrun
    · rw [hlim] at hn; cases hn

/-- A run of k + 1 steps is one step and a run of k. -/
theorem run_succ_of_next {M : Host.Core} {s t : M.State} (h : M.step s = .next t) (k : Nat) :
    M.run (k + 1) s = M.run k t := by
  rw [Host.Core.run, h]

/-- Each step of the machine goes on with the run. -/
theorem StuckRun.steps {s : State} (hcfg : s.cfg.wf = true) (hlim : s.cfg.pollLimit = none) :
    ∀ (k : Nat) (u : State), StuckRun s u → ∃ t, Host.Core.run Sys2Proof.core k u = .next t ∧ StuckRun s t := by
  intro k
  induction k with
  | zero => intro u hu; exact ⟨u, rfl, hu⟩
  | succ k ih =>
    intro u hu
    obtain ⟨t, ht, hrun⟩ := StuckRun.goesOn hcfg hlim tickFuel u hu
    have hstep : Sys2Proof.core.step u = .next t := by
      change Machine.step u = .next t
      rw [Machine.step, if_pos hu.busy]; exact ht
    obtain ⟨v, hv, hrunv⟩ := ih t hrun
    exact ⟨v, (run_succ_of_next hstep k).trans hv, hrunv⟩

/-- Settles O31: the request's own step and every step after it leave the run where the wait does not hold. -/
theorem stuckPeripheralHangsWhenPollsAreUnbounded : Obligations.StuckPeripheralHangsWhenPollsAreUnbounded := by
  intro i s k hready hstuck hlim hw hs
  have hstale : s.staleFits := fun n hn => by rw [hlim] at hn; cases hn
  have hrun := stuckRun_accept hready hstuck hstale (movesBytes_of hw hs)
  obtain ⟨t, ht, hrunt⟩ := StuckRun.goesOn hready.cfgWf hlim tickFuel _ hrun
  obtain ⟨u, hu, hrunu⟩ := StuckRun.steps hready.cfgWf hlim k t hrunt
  have hidle : s.busy = false := (State.busy_false_iff s).mpr hready.cflIdle
  exact ⟨t, u, by rw [exec_of_idle i hidle]; exact ht, hu, hrunu.busy, hrunu.wireOut⟩

end Sys2Proof.Machine

namespace Sys2Proof.Machine

/-! ## The lanes of a FIFO word -/

/-- A FIFO word is its four bytes (R65). -/
theorem word_eq_of_byteOf {x y : Word} (h : ∀ k < 4, byteOf x k = byteOf y k) : x = y := by
  ext i hi
  have hbyte := congrArg (·.getLsbD (i % 8)) (h (i / 8) (by omega))
  have hplace : 8 * (i / 8) + i % 8 = i := Nat.div_add_mod i 8
  simpa [byteOf, hplace, hi, Nat.mod_lt] using hbyte

/-- Byte k of a word written as four bytes, the first in wire order on the right (R65). -/
theorem byteOf_append (b0 b1 b2 b3 : Byte) {k : Nat} (hk : k < 4) :
    byteOf (b3 ++ (b2 ++ (b1 ++ b0)) : BitVec (8 + (8 + (8 + 8)))) k = [b0, b1, b2, b3][k] := by
  unfold byteOf
  interval_cases k
  · rw [BitVec.extractLsb'_append_eq_of_add_le (by decide), BitVec.extractLsb'_append_eq_of_add_le (by decide)]
    exact BitVec.extractLsb'_append_eq_right
  · rw [BitVec.extractLsb'_append_eq_of_add_le (by decide), BitVec.extractLsb'_append_eq_of_add_le (by decide)]
    exact BitVec.extractLsb'_append_eq_left
  · rw [BitVec.extractLsb'_append_eq_of_add_le (by decide)]
    exact BitVec.extractLsb'_append_eq_left
  · exact BitVec.extractLsb'_append_eq_left

/-- Settles O49: the packed word and the word written as its bytes have the same byte in each lane. -/
theorem wordLanesAreInWireOrder : Obligations.WordLanesAreInWireOrder := by
  intro b0 b1 b2 b3 w
  have hlane {k : Nat} (hk : k < 4) := byteOf_append b0 b1 b2 b3 hk
  refine ⟨word_eq_of_byteOf fun k hk => ?_, hlane (k := 0) (by decide), hlane (k := 1) (by decide),
    hlane (k := 2) (by decide), hlane (k := 3) (by decide)⟩
  refine Eq.trans ?_ (hlane hk).symm
  interval_cases k <;> simp [byteOf_setByte]

end Sys2Proof.Machine

namespace Sys2Proof.Machine

/-! ## Requests that end ILLEGAL_REQUEST -/

/-- R61, R173: a request on a non-empty buffer that is null or passes 2^32 is not one the block runs. -/
theorem wellFormed_eq_false_of_bad {i : Instr} (hu : i.usesBuffer = true) (hs : i.size ≠ 0)
    (hbad : i.buf = 0 ∨ 2 ^ 32 < i.buf.toNat + i.size.toNat) : i.wellFormed = false := by
  have hb : badBuffer i.buf i.size = true := by simpa [badBuffer] using ⟨hs, hbad⟩
  rwa [badBuffer_eq hu, Bool.not_eq_true'] at hb

/-- Settles O14: CHECK refuses the request, and with no frame running the peripheral's share is nothing. -/
theorem badBuffersEndIllegalWithNoAccess : Obligations.BadBuffersEndIllegalWithNoAccess := by
  intro s buf size i hi hs hbad hb hr hf
  obtain ⟨hu, rfl, rfl⟩ : i.usesBuffer = true ∧ i.buf = buf ∧ i.size = size := by
    rcases hi with rfl | rfl | rfl | rfl <;> exact ⟨rfl, rfl, rfl⟩
  have hexec := illegalRequestsLeaveThePeripheralToItself i s (wellFormed_eq_false_of_bad hu hs hbad) hb hr
  rw [breathe_of_no_frame (by exact hf), andThen_next] at hexec
  exact ⟨_, hexec, by simp [(State.busy_false_iff s).mp hb], rfl, rfl, rfl, rfl, rfl, rfl, rfl⟩

/-- What the registers hold while the request i runs: the invariants, and the request's own op, buf and size (R50). -/
structure RunsRequest (i : Instr) (b : Block) : Prop where
  ok : BlockOk b
  phase : PhaseOk b
  op : b.op = i.op
  buf : b.buf = i.buf
  size : b.size = i.size

theorem runsRequest_accept (i : Instr) (s : State) : RunsRequest i (accept i.op i.buf i.size s).block :=
  ⟨blockOk_accept _ _ _ _, phaseOk_of_no_byte (by simp), by simp, by simp, by simp⟩

theorem RunsRequest.act {i : Instr} {u v : State} (h : RunsRequest i u.block) (hb : u.busy = true)
    (hv : act u = .next v) : RunsRequest i v.block := by
  obtain ⟨es, hm, -, -⟩ := act_acts hb hv
  have honly := act_actOnly hv
  exact ⟨hm.keeps_ok h.ok, hm.keeps_phaseOk h.phase, honly.op.trans h.op, honly.buf.trans h.buf,
    honly.size.trans h.size⟩

/-- CHECK lets a request that the block runs go on (R173). -/
theorem checkRequest_busy_of_wellFormed {i : Instr} {s : State} (h : i.wellFormed = true) (hs : RunsRequest i s.block) :
    (checkRequest s).busy = true := by
  have hgood : i.usesBuffer = true → badBuffer s.block.buf s.block.size = false := by
    intro hu; rw [hs.buf, hs.size, badBuffer_eq hu, h]; rfl
  unfold checkRequest
  rw [hs.op, hs.buf, hs.size, decodeReq_fields]
  cases i with
  | send b n => simp [checkBuffer, hgood rfl, goCfl, State.busy]
  | recv b n => simp [checkBuffer, hgood rfl, goCfl, State.busy]
  | cmd0 b n => rfl
  | cmd53r b n => simp [checkC53, hgood rfl, goCfl, State.busy]
  | cmd53w b n => simp [checkC53, hgood rfl, goCfl, State.busy]
  | rsv5 b n => cases h
  | rsv6 b n => cases h
  | rsv7 b n => cases h

/-- Past CHECK no move ends the request with ILLEGAL_REQUEST (R174, R146). -/
theorem BlockMove.status_ne_illegal {b b' : Block} {es : List Event} (hm : BlockMove b es b') (h : BlockOk b)
    (hp : PhaseOk b) (hb : b.cfl ≠ .idle) (hc : b.cfl ≠ .check) (hend : b'.cfl = .idle) :
    b'.status ≠ .illegalRequest := by
  rcases hm with ⟨-, hm⟩ | ⟨hn, hm⟩
  · cases hm with
    | ends st he =>
      rcases he with ⟨hc', -⟩ | ⟨-, rfl⟩ | ⟨-, rfl⟩
      · exact absurd hc' hc
      · dsimp only; split <;> simp
      · simp
    | bufferChecked c hc' => exact absurd hc' hc
    | calls => exact absurd hend hb
    | _ => cases hend
  · cases hm.callStep h hp hn with
    | goesOn n _ _ _ hcfl => exact absurd (hcfl.symm.trans hend) hb
    | returns _ _ hb' =>
      subst hb'
      cases hcfl : b.cfl <;> simp_all [afterCall]
    | givesUp _ hb' => subst hb'; simp

/-- An action of a request that the block runs does not end it with ILLEGAL_REQUEST (R173, R175). -/
theorem RunsRequest.status_ne_illegal {i : Instr} {u v : State} (hi : i.wellFormed = true) (h : RunsRequest i u.block)
    (hb : u.busy = true) (hv : Machine.act u = .next v) (hend : v.busy = false) :
    v.block.status ≠ .illegalRequest := by
  by_cases hc : u.block.cfl = .check
  · have hw : u.block.wte = .none := by
      by_contra hn
      have hcall := h.ok.callOk hn
      simp [callOk, hc] at hcall
    rw [act_eq_cflAct hw, cflAct, hc] at hv
    cases hv
    rw [checkRequest_busy_of_wellFormed hi h] at hend
    cases hend
  · obtain ⟨es, hm, -, -⟩ := act_acts hb hv
    exact hm.status_ne_illegal h.ok h.phase ((State.busy_iff u).mp hb) hc ((State.busy_false_iff v).mp hend)

/-- A request that the block runs does not end with ILLEGAL_REQUEST (R173, R175). -/
theorem exec_status_ne_illegal {i : Instr} {s t : State} (hi : i.wellFormed = true) (hb : s.busy = false)
    (hr : s.env.resets = []) (h : exec i s = .next t) (hend : t.busy = false) : t.block.status ≠ .illegalRequest := by
  refine (exec_keeps
    (fun u => RunsRequest i u.block ∧ (u.busy = false → u.block.status ≠ .illegalRequest)) hb hr h
    ⟨runsRequest_accept i s, by simp⟩ ?_ ?_).2 hend
  · rintro u v hu hv
    rw [State.busy, hv.block]; exact hu
  · rintro u v ⟨hu, -⟩ hbu hv
    exact ⟨hu.act hbu hv, hu.status_ne_illegal hi hbu hv⟩

/-- A request that is not one the block runs ends ILLEGAL_REQUEST, and all that shows of it is its strobe and the
peripheral's own steps (R173, R176). -/
theorem exec_of_illegal {i : Instr} {s t : State} (hi : i.wellFormed = false) (hb : s.busy = false)
    (hr : s.env.resets = []) (h : exec i s = .next t) :
    ∃ u b, PeriphOnly (s.withBlock b) u ∧ t = endRequest .illegalRequest u := by
  rw [illegalRequestsLeaveThePeripheralToItself i s hi hb hr] at h
  obtain ⟨u, hu, ht⟩ := andThen_eq_next.mp h
  cases ht
  exact ⟨u, _, breathe_periphOnly hu, rfl⟩

/-- A view of the trace that sees neither link bytes nor strobes sees nothing of such a request. -/
theorem filterMap_trace_of_illegal {α : Type} {s u : State} {b : Block} (h : PeriphOnly (s.withBlock b) u)
    {f : Event → Option α} (hwire : ∀ o i, f (.wire o i) = none) (hend : ∀ st, f (.complete st) = none) :
    (endRequest .illegalRequest u).trace.filterMap f = s.trace.filterMap f := by
  rw [endRequest_trace, List.filterMap_append, h.filterMap_trace hwire, State.withBlock_trace]
  simp [hend]

/-- Settles O16: `exec_of_illegal` for the requests that CHECK refuses, `exec_status_ne_illegal` for the others. -/
theorem illegalExactlyWhenNotWellFormed : Obligations.IllegalExactlyWhenNotWellFormed := by
  intro i s t hb hr h hend
  cases hi : i.wellFormed with
  | false =>
    obtain ⟨u, b, hu, rfl⟩ := exec_of_illegal hi hb hr h
    exact ⟨⟨fun _ => rfl, fun _ => rfl⟩, fun _ =>
      ⟨filterMap_trace_of_illegal hu (fun _ _ => rfl) fun _ => rfl,
        filterMap_trace_of_illegal hu (fun _ _ => rfl) fun _ => rfl,
        filterMap_trace_of_illegal hu (fun _ _ => rfl) fun _ => rfl⟩⟩
  | true =>
    have hne := exec_status_ne_illegal hi hb hr h hend
    exact ⟨⟨fun he => absurd he hne, fun he => by cases he⟩, fun he => absurd he hne⟩

end Sys2Proof.Machine

namespace Sys2Proof.Machine

/-! ## The bytes of memory a request leaves alone -/

/-- What acceptance, the peripheral's steps, every action of a busy block and a reset keep, a request keeps, whatever
resets arrive while it runs (R185). -/
theorem exec_keeps_through_resets (P : State → Prop) {i : Instr} {s t : State} (hb : s.busy = false)
    (h : exec i s = .next t) (h0 : P (accept i.op i.buf i.size s)) (hset : ∀ u r, P u → P (setResets r u))
    (hreset : ∀ u, P u → P (blockReset u)) (hp : ∀ u v, P u → PeriphOnly u v → P v)
    (ha : ∀ u v, P u → u.busy = true → act u = .next v → P v) : P t := by
  rw [exec_of_idle i hb] at h
  refine runTicks_keeps P ?_ _ _ t h0 h
  intro u w hu hbu ht
  rcases tick_next ht with ⟨later, -, rfl⟩ | ⟨r, v, -, hv, hw⟩
  · exact hreset _ (hset u later hu)
  · have honly := breathe_periphOnly hv
    refine ha v w (hp _ v (hset u r hu) honly) ?_ hw
    rw [State.busy, honly.block]; exact hbu

/-- The request i may not store to the byte at a: it stores nothing, or a lies outside its Transfer Buffer
(R60, R62). -/
def Spares (i : Instr) (a : Nat) : Prop :=
  ReceivesBuffer i.op → a < i.buf.toNat ∨ i.buf.toNat + i.size.toNat ≤ a

/-- An action stores to no byte that its request spares. -/
theorem RunsRequest.mem_read {i : Instr} {u v : State} (h : RunsRequest i u.block) (hb : u.busy = true)
    (hv : Machine.act u = .next v) {a : Nat} (ha : Spares i a) : v.mem.read a = u.mem.read a := by
  obtain ⟨es, hm, -, hacc⟩ := act_acts hb hv
  obtain ⟨n, hstep⟩ := hm.bufferStep h.ok h.phase ((State.busy_iff u).mp hb)
  cases hacc with
  | quiet _ hmem => rw [hmem]
  | ctlWritten _ _ hmem => rw [hmem]
  | txdWritten _ _ _ hmem => rw [hmem]
  | rxdRead _ _ _ _ hmem => rw [hmem]
  | stored a' x _ _ hmem =>
    rw [hmem]
    refine Memory.read_write_ne _ _ ?_
    cases hstep.access with
    | none _ hw => cases hw
    | read _ hr => cases hr
    | write hop _ hw =>
      have haddr : a' = u.block.buf.toNat + bufferMoved u.block := by simpa [Event.writeAddr?] using hw
      have hbusy : v.block.cfl ≠ .idle := fun hi => by cases (hstep.ends hi).1
      have hmoved := hstep.goesOn hbusy
      have hnext := h.act hb hv
      have hle := hnext.ok.bufferMoved_le
      rw [hnext.size] at hle
      have hout := ha (h.op ▸ hop)
      rw [haddr, h.buf]
      omega

/-- A request stores to no byte that it spares. -/
theorem exec_mem_read {i : Instr} {s t : State} (hb : s.busy = false) (h : exec i s = .next t) {a : Nat}
    (ha : Spares i a) : t.mem.read a = s.mem.read a := by
  refine (exec_keeps_through_resets
    (fun u => (u.busy = true → RunsRequest i u.block) ∧ u.mem.read a = s.mem.read a) hb h
    ⟨fun _ => runsRequest_accept i s, by simp⟩ ?_ ?_ ?_ ?_).2
  · exact fun u r hu => hu
  · exact fun u hu => ⟨fun hbu => by simp at hbu, hu.2⟩
  · intro u v hu hv
    rw [State.busy, hv.block, hv.mem]; exact hu
  · intro u v hu hbu hv
    have hrun := hu.1 hbu
    exact ⟨fun _ => hrun.act hbu hv, (hrun.mem_read hbu hv ha).trans hu.2⟩

/-- Settles O33: a request that does not receive spares every byte. -/
theorem sendingRequestsKeepMemory : Obligations.SendingRequestsKeepMemory := by
  intro i s t buf size hi h hb a
  refine exec_mem_read hb h fun hop => absurd hop ?_
  rcases hi with rfl | rfl | rfl | rfl | rfl | rfl <;> simp [ReceivesBuffer, Instr.op]

/-- Settles O34: a receiving request spares every byte outside its buffer. -/
theorem receivingRequestsKeepMemoryOutsideTheBuffer : Obligations.ReceivingRequestsKeepMemoryOutsideTheBuffer := by
  intro i s t buf size hi h hb a ha
  refine exec_mem_read hb h fun _ => ?_
  rcases hi with rfl | rfl <;> exact ha

end Sys2Proof.Machine

namespace Sys2Proof.Machine

/-! ## The encoding of a request -/

@[simp] theorem buf_decodeReq (op : BitVec 3) (b n : Word) : (decodeReq op b n).buf = b := by
  obtain ⟨⟨k, hk⟩⟩ := op
  interval_cases k <;> rfl

@[simp] theorem size_decodeReq (op : BitVec 3) (b n : Word) : (decodeReq op b n).size = n := by
  obtain ⟨⟨k, hk⟩⟩ := op
  interval_cases k <;> rfl

/-- The buf field of a word written as its three fields. -/
theorem reqBuf_append (n b : Word) (o : BitVec 3) : reqBuf (n ++ (b ++ o)) = b :=
  (BitVec.extractLsb'_append_eq_of_add_le (by decide)).trans BitVec.extractLsb'_append_eq_left

/-- The size field of a word written as its three fields. -/
theorem reqSize_append (n b : Word) (o : BitVec 3) : reqSize (n ++ (b ++ o)) = n :=
  BitVec.extractLsb'_append_eq_left

/-- Settles O5: each field of the word is the request's, and a request is what its op code and operands select. -/
theorem decodeOfEncodeIsTheRequest : Obligations.DecodeOfEncodeIsTheRequest := by
  intro i
  calc decode (encode i)
      = decodeReq (reqOp (encode i)) (reqBuf (encode i)) (reqSize (encode i)) := rfl
    _ = decodeReq i.op i.buf i.size := by
        rw [encode, Laws.EncodeOp.reqOp_append, reqBuf_append, reqSize_append]
    _ = i := decodeReq_fields i

/-- The three fields of a word, end to end, are the word (R80). -/
theorem fields_append (w : ReqWord) : reqSize w ++ (reqBuf w ++ reqOp w) = w := by
  have hlow : reqBuf w ++ reqOp w = w.extractLsb' 0 35 :=
    BitVec.extractLsb'_append_extractLsb'_eq_extractLsb' (Nat.zero_add 3).symm
  rw [hlow]
  exact (BitVec.extractLsb'_append_extractLsb'_eq_extractLsb' (Nat.zero_add 35).symm).trans BitVec.extractLsb'_eq_self

/-- Settles O6: encoding writes back the three fields that decoding took. -/
theorem encodeOfDecodeIsTheWord : Obligations.EncodeOfDecodeIsTheWord := by
  intro w
  rw [encode, decode, op_decodeReq, buf_decodeReq, size_decodeReq, fields_append]

/-- Settles O7: the row that an op value selects has that op code, and a request is determined by its op code and
operands. -/
theorem everyOpValueSelectsOneRow : Obligations.EveryOpValueSelectsOneRow := by
  rintro op buf size
  refine ⟨op_decodeReq op buf size, buf_decodeReq op buf size, size_decodeReq op buf size, ?_⟩
  rintro i rfl rfl rfl
  exact (decodeReq_fields i).symm

/-- Settles O8: each of the thirteen words is evaluated. -/
theorem opcodeTableWordsDecode : Obligations.OpcodeTableWordsDecode := by
  unfold Obligations.OpcodeTableWordsDecode
  decide

/-! ## The header of a chunk -/

/-- sizeHi and sizeLo are the two digits of the chunk length in base 256 (R93). -/
theorem sizeHi_sizeLo (L : BitVec 9) : (sizeHi L).toNat * 256 + (sizeLo L).toNat = L.toNat := by
  revert L; decide

/-- Settles O50: the field's two bytes are sizeHi and sizeLo, and the rest is the template (R92). -/
theorem headerCarriesTheChunkLength : Obligations.HeaderCarriesTheChunkLength := by
  intro n hn
  refine ⟨sizeHi (BitVec.ofNat 9 n), sizeLo (BitVec.ofNat 9 n), ?_, rfl, rfl⟩
  rw [sizeHi_sizeLo, BitVec.toNat_ofNat, Nat.mod_eq_of_lt (by omega)]

/-! ## A reserved op -/

/-- Settles O13: the request is accepted, the peripheral has no frame to move, and CHECK refuses it. -/
theorem reservedOpsEndIllegalWithNoAccess : Obligations.ReservedOpsEndIllegalWithNoAccess := by
  intro s buf size i hi hb hr hf
  obtain ⟨hill, rfl, rfl⟩ : i.wellFormed = false ∧ i.buf = buf ∧ i.size = size := by
    rcases hi with rfl | rfl | rfl <;> exact ⟨rfl, rfl, rfl⟩
  have hexec := illegalRequestsLeaveThePeripheralToItself i s hill hb hr
  rw [breathe_of_no_frame (by exact hf), andThen_next] at hexec
  exact ⟨_, hexec, by simp [(State.busy_false_iff s).mp hb], rfl, rfl, rfl, rfl, rfl, rfl, rfl⟩

end Sys2Proof.Machine

namespace Sys2Proof.Machine

/-! ## The peripheral's share of a tick while a frame runs -/

/-- The bytes received from s to t are the link partner's answers in order (R46), as far as its tape lists them. -/
def Answered (s t : State) : Prop :=
  ∃ d : List Byte, t.wireIn = s.wireIn ++ d ∧ t.env.answers.items = s.env.answers.items.drop d.length
    ∧ ∀ x v, x < d.length → s.env.answers.items[x]? = some v → d[x]? = some v

theorem Answered.of_eq {s t : State} (hw : t.wireIn = s.wireIn) (ha : t.env.answers = s.env.answers) : Answered s t :=
  ⟨[], by simp [hw], by simp [ha], by simp⟩

theorem Answered.trans {s t u : State} (h : Answered s t) (k : Answered t u) : Answered s u := by
  obtain ⟨d, hw, hi, hv⟩ := h
  obtain ⟨e, kw, ki, kv⟩ := k
  refine ⟨d ++ e, by rw [kw, hw, List.append_assoc], by rw [ki, hi, List.drop_drop, List.length_append], ?_⟩
  intro x v hx hs
  by_cases hxd : x < d.length
  · rw [List.getElem?_append_left hxd]; exact hv x v hxd hs
  · rw [List.length_append] at hx
    rw [List.getElem?_append_right (by omega)]
    refine kv _ v (by omega) ?_
    rw [hi, List.getElem?_drop, Nat.add_sub_cancel' (by omega)]
    exact hs

/-- What an undisturbed peripheral's own steps do besides `PeriphOnly`: the pace is not drawn, the answers are taken in
order, and RX words are only appended. -/
structure PeriphSteps (s t : State) : Prop where
  sched : t.env.sched = s.env.sched
  answered : Answered s t
  rx : s.periph.rx <+: t.periph.rx

theorem PeriphSteps.refl (s : State) : PeriphSteps s s := ⟨rfl, .of_eq rfl rfl, List.prefix_rfl⟩

theorem PeriphSteps.trans {s t u : State} (h : PeriphSteps s t) (k : PeriphSteps t u) : PeriphSteps s u :=
  ⟨k.sched.trans h.sched, h.answered.trans k.answered, h.rx.trans k.rx⟩

/-- One answer taken from the link and logged. -/
theorem drawAnswer_steps (s : State) (b : Byte) {p : Periph} (hp : s.periph.rx <+: p.rx) :
    PeriphSteps s (((drawAnswer s).2.log (.wire b (drawAnswer s).1)).withPeriph p) := by
  refine ⟨rfl, ⟨[(drawAnswer s).1], ?_, ?_, ?_⟩, hp⟩
  · simp [State.wireIn, (drawAnswer_same s).trace, Event.wireIn?]
  · cases hl : s.env.answers.items <;> simp [drawAnswer, Tape.draw, hl]
  · intro x v hx hv
    obtain rfl : x = 0 := by simpa using hx
    cases hl : s.env.answers.items with
    | nil => simp [hl] at hv
    | cons a l => simpa [drawAnswer, Tape.draw, hl] using hv

/-- Everything one byte of an undisturbed frame does: one answer is taken, and the peripheral moves. -/
theorem frameExchange_steps {f : Frame} {s t : State} (hd : s.periph.disturbed = false)
    (h : frameExchange f s = .next t) : PeriphSteps s t := by
  have hx : exchange (byteOf f.word (f.i % 4)) s = ((byteOf f.word (f.i % 4), (drawAnswer s).1), (drawAnswer s).2) := by
    unfold exchange; rw [hd]; rfl
  simp only [frameExchange, hx] at h
  split at h
  · obtain ⟨u, hu, hn⟩ := andThen_eq_next.mp h
    obtain ⟨-, rfl⟩ := frameWordDone_next hu
    cases hn
    exact drawAnswer_steps s _ (List.prefix_append _ _)
  · split at h
    · obtain ⟨u, hu, hn⟩ := andThen_eq_next.mp h
      obtain ⟨-, rfl⟩ := frameWordDone_next hu
      cases hn
      exact drawAnswer_steps s _ (List.prefix_append _ _)
    · cases h
      exact drawAnswer_steps s _ List.prefix_rfl

theorem frameByte_steps {f : Frame} {s t : State} (hd : s.periph.disturbed = false) (h : frameByte f s = .next t) :
    PeriphSteps s t := by
  unfold frameByte at h
  split at h
  · split at h
    · cases h; exact .refl s
    · have hpad : PeriphSteps s (drawPad s).2 := ⟨rfl, .of_eq rfl rfl, List.prefix_rfl⟩
      exact hpad.trans (frameExchange_steps (by exact hd) h)
  · exact frameExchange_steps hd h

/-! ### The RX words that the block has read meanwhile -/

/-- The state with RX words that the block has read put back at the head of the RX FIFO. -/
def State.untake (ws : List Word) (u : State) : State :=
  u.withPeriph { u.periph with rx := ws ++ u.periph.rx }

@[simp] theorem untake_periph (ws : List Word) (u : State) :
    (u.untake ws).periph = { u.periph with rx := ws ++ u.periph.rx } := rfl


theorem log_untake (ws : List Word) (u : State) (e : Event) : (u.untake ws).log e = (u.log e).untake ws := rfl

theorem frameWordDone_untake {ws : List Word} {a : Word} {u t : State}
    (h : frameWordDone a (u.untake ws) = .next t) : ∃ v, frameWordDone a u = .next v ∧ t = v.untake ws := by
  obtain ⟨hroom, rfl⟩ := frameWordDone_next h
  have hroom' : ¬ u.cfg.rxDepth ≤ u.periph.rx.length := by
    simp [State.untake] at hroom; omega
  refine ⟨_, by simp only [frameWordDone, rxFull, hroom', decide_false]; rfl, ?_⟩
  simp [State.untake]

theorem exchange_untake (ws : List Word) (b : Byte) (u : State) :
    exchange b (u.untake ws) = ((exchange b u).1, (exchange b u).2.untake ws) := by
  unfold exchange
  rw [untake_periph]
  split <;> rfl

/-- A byte of a frame does not see the RX words, but that there is room for one more. -/
theorem frameExchange_untake {ws : List Word} {f : Frame} {u t : State}
    (h : frameExchange f (u.untake ws) = .next t) : ∃ v, frameExchange f u = .next v ∧ t = v.untake ws := by
  simp only [frameExchange, exchange_untake, log_untake] at h ⊢
  split at h
  · obtain ⟨w, hw, hn⟩ := andThen_eq_next.mp h
    obtain ⟨v, hv, rfl⟩ := frameWordDone_untake hw
    cases hn
    rename_i hend
    exact ⟨_, by rw [if_pos hend, hv]; rfl, rfl⟩
  · rename_i hend
    split at h
    · rename_i h3
      obtain ⟨w, hw, hn⟩ := andThen_eq_next.mp h
      obtain ⟨v, hv, rfl⟩ := frameWordDone_untake hw
      cases hn
      exact ⟨_, by rw [if_neg hend, if_pos h3, hv]; rfl, rfl⟩
    · rename_i h3
      cases h
      exact ⟨_, by rw [if_neg hend, if_neg h3], rfl⟩

theorem frameByte_untake {ws : List Word} {f : Frame} {u t : State} (h : frameByte f (u.untake ws) = .next t) :
    ∃ v, frameByte f u = .next v ∧ t = v.untake ws := by
  unfold frameByte at h ⊢
  split at h
  · rename_i h0
    rw [if_pos h0]
    cases htx : u.periph.tx with
    | nil =>
      simp only [untake_periph, htx] at h
      cases h
      exact ⟨_, rfl, rfl⟩
    | cons w l =>
      simp only [untake_periph, htx] at h
      exact frameExchange_untake (u := (drawPad u).2) h
  · rename_i h0
    rw [if_neg h0]
    exact frameExchange_untake h

/-! ### The share -/

/-- The frame of the words `ws` that began in s: it runs, with bytes left of its n, or it is over. -/
def FrameGoes (s : State) (ws : List Word) (n : Nat) (u : State) : Prop :=
  (∃ i < n, FrameAt s ws [] n i u) ∨ FrameOver s ws [] n u

section
variable {s : State} {ws taken : List Word} {n : Nat}

/-- Any number of steps takes the frame as many bytes further, or to its end. -/
theorem FrameAt.steps (hlen : ws.length = (n + 3) / 4) (hroom : s.periph.rx.length + ws.length ≤ s.cfg.rxDepth) :
    ∀ (k i : Nat) (u : State), FrameAt s ws [] n i (u.untake taken) → i < n →
      ∃ t, periphRun k u = .next t ∧ PeriphSteps u t
        ∧ (i + k < n ∧ FrameAt s ws [] n (i + k) (t.untake taken) ∨ FrameOver s ws [] n (t.untake taken)) := by
  intro k
  induction k with
  | zero => intro i u h hi; exact ⟨u, rfl, .refl u, .inl ⟨hi, h⟩⟩
  | succ k ih =>
    intro i u h hi
    obtain ⟨f, t', hf, ht', hgo, hover⟩ := h.step hi hlen hroom
    obtain ⟨t, ht, rfl⟩ := frameByte_untake ht'
    have hd : u.periph.disturbed = false := by
      obtain ⟨ins, rs, g, hsent, -⟩ := h
      exact hsent.disturbed
    have hbyte := frameByte_steps hd ht
    have hrun : periphRun (k + 1) u = periphRun k t := by
      conv_lhs => unfold periphRun
      rw [show u.periph.frame = some f from hf]
      simp only [ht, andThen_next]
    rw [hrun]
    by_cases hlast : i + 1 = n
    · obtain ⟨ins, rs, hsent, hnone, hrest⟩ := hover hlast
      have hstop : periphRun k t = .next t := by
        cases k with
        | zero => rfl
        | succ k => unfold periphRun; rw [show t.periph.frame = none from hnone]
      exact ⟨t, hstop, hbyte, .inr ⟨ins, rs, hsent, hnone, hrest⟩⟩
    · obtain ⟨v, hv, hsteps, hat⟩ := ih (i + 1) t (hgo (by omega)) (by omega)
      exact ⟨v, hv, hbyte.trans hsteps, by rwa [show i + (k + 1) = i + 1 + k by omega]⟩

/-- A draw of the pace of a healthy peripheral is at least one step, and leaves it healthy (R47). -/
theorem drawSched_of_healthy {u : State} (h : u.healthy) : 1 ≤ (drawSched u).1 ∧ (drawSched u).2.healthy := by
  obtain ⟨hitems, k, hrest, hk⟩ := h
  unfold drawSched Tape.draw State.healthy
  cases hl : u.env.sched.items with
  | nil => exact ⟨by simpa [hrest] using hk, by simp [hl], k, hrest, hk⟩
  | cons j l =>
    rw [hl] at hitems
    exact ⟨hitems j (by simp), fun m hm => hitems m (List.mem_cons_of_mem j hm), k, hrest, hk⟩

/-- What the peripheral's share of a tick does to the tapes and the frame, and what a healthy one does of it. -/
structure Share (u t : State) : Prop where
  only : PeriphOnly u t
  answered : Answered u t
  rx : u.periph.rx <+: t.periph.rx
  healthy : u.healthy → t.healthy
  progress : u.healthy → ∀ g, t.periph.frame = some g →
    ∃ f, u.periph.frame = some f ∧ f.i < g.i ∧ g.i < g.n ∧ g.n = f.n

theorem share_of_no_frame {u : State} (h : u.periph.frame = none) : Share u u :=
  ⟨.refl u, .of_eq rfl rfl, List.prefix_rfl, id, fun _ g hg => by rw [h] at hg; cases hg⟩

/-- The peripheral's share takes the frame further, whatever the pace. -/
theorem FrameGoes.breathe {u : State} (h : FrameGoes s ws n (u.untake taken)) (hlen : ws.length = (n + 3) / 4)
    (hroom : s.periph.rx.length + ws.length ≤ s.cfg.rxDepth) :
    ∃ t, breathe u = .next t ∧ FrameGoes s ws n (t.untake taken) ∧ Share u t := by
  rcases h with ⟨i, hi, h⟩ | h
  · obtain ⟨f, hf, hn, hfi⟩ : ∃ f, u.periph.frame = some f ∧ f.n = n ∧ f.i = i := by
      obtain ⟨ins, rs, f, -, hf, hn, hfi, -⟩ := h
      exact ⟨f, hf, hn, hfi⟩
    have hat : FrameAt s ws [] n i ((drawSched u).2.untake taken) := by
      obtain ⟨ins, rs, f, hsent, hrest⟩ := h
      exact ⟨ins, rs, f, hsent.drawn (by constructor <;> rfl), hrest⟩
    obtain ⟨t, ht, hsteps, hgo⟩ := hat.steps hlen hroom (drawSched u).1 i _ hi
    have hb : Machine.breathe u = .next t := by
      unfold Machine.breathe
      rw [hf]; exact ht
    refine ⟨t, hb, hgo.imp (fun h => ⟨_, h.1, h.2⟩) id, breathe_periphOnly hb, ?_, hsteps.rx, ?_, ?_⟩
    · exact (Answered.of_eq rfl rfl : Answered u (drawSched u).2).trans hsteps.answered
    · intro hh
      rw [State.healthy, hsteps.sched]
      exact (drawSched_of_healthy hh).2
    · intro hh g hg
      have hk := (drawSched_of_healthy hh).1
      rcases hgo with ⟨hlt, ins, rs, f', -, hf', hn', hfi', -⟩ | ⟨ins, rs, -, hnone, -⟩
      · obtain rfl : f' = g := Option.some.inj (hf'.symm.trans hg)
        exact ⟨f, hf, by omega, by omega, by omega⟩
      · rw [show t.periph.frame = none from hnone] at hg; cases hg
  · have hf : u.periph.frame = none := by
      obtain ⟨ins, rs, -, hf, -⟩ := h
      exact hf
    exact ⟨u, breathe_of_no_frame hf, .inr h, share_of_no_frame hf⟩

end

end Sys2Proof.Machine

namespace Sys2Proof.Machine

/-! ## The frame length field through a burst -/

theorem getElem_ctlFl (x : Word) (i : Nat) (hi : i < 8) : (ctlFl x)[i] = x[16 + i]'(by omega) := by
  simp [ctlFl, BitVec.getLsbD_eq_getElem (show 16 + i < 32 by omega)]

theorem getElem_flMask (i : Nat) (hi : i < 8) : Config.flMask[16 + i]'(by omega) = true := by
  unfold Config.flMask
  revert i
  decide

/-- Bits outside FL, set or cleared, leave the field. -/
theorem getElem_of_and_flMask {m : Word} (h : m &&& Config.flMask = 0) (i : Nat) (hi : i < 8) :
    m[16 + i]'(by omega) = false := by
  have hbit := congrArg (fun x => x[16 + i]'(by omega)) h
  simpa [getElem_flMask i hi] using hbit

/-- R206: FL shares no bit with the FIFO-clear fields. -/
theorem Config.wf_clear_fl {c : Config} (h : c.wf = true) : clearMask c &&& Config.flMask = 0 := by
  simp only [Config.wf, Config.wfCtl, Bool.and_eq_true, decide_eq_true_eq] at h
  obtain ⟨⟨⟨-, hc⟩, -⟩, -⟩ := h
  obtain ⟨⟨⟨-, hr⟩, ht⟩, -⟩ := hc
  rw [clearMask, BitVec.and_comm, BitVec.and_or_distrib_left, BitVec.and_comm, hr, BitVec.and_comm, ht]; rfl

/-- The FIFO-clear bits read as 0 without touching FL. -/
theorem ctlFl_and_not_clear {c : Config} (h : c.wf = true) (v : Word) : ctlFl (v &&& ~~~clearMask c) = ctlFl v := by
  ext i hi
  simp [getElem_ctlFl, getElem_of_and_flMask (Config.wf_clear_fl h) i hi]

/-- B6 leaves FL as it was read (R100, R118). -/
theorem ctlFl_trigOn {c : Config} (h : c.wf = true) (v : Word) : ctlFl (ctlTrigOn c v) = ctlFl v := by
  ext i hi
  simp [ctlTrigOn, getElem_ctlFl, getElem_of_and_flMask (Config.wf_xch h).2.2 i hi]

/-- B4 sets FL to the burst's length minus one (R99, R116). -/
theorem toNat_ctlFl_frameLen (v : Word) {n : BitVec 6} (hn : 1 ≤ n.toNat) :
    (ctlFl (ctlFrameLen v n)).toNat = n.toNat - 1 := by
  have hfield : ctlFl (ctlFrameLen v n) = (n - 1#6).setWidth 8 := by
    ext i hi
    simp only [ctlFrameLen, getElem_ctlFl, BitVec.getElem_or, BitVec.getElem_and, BitVec.getElem_not,
      getElem_flMask i hi, BitVec.getElem_shiftLeft]
    simp [show ¬ 16 + i < 16 by omega]
  have hlt := n.isLt
  rw [hfield, BitVec.toNat_setWidth, BitVec.toNat_sub]
  simp; omega

/-! ## The bytes of a call -/

/-- Byte i that the call in progress puts on the link is v (R24, R102, R117). A byte of the buffer is memory's unless
another agent writes it meanwhile (R74). -/
def SentByte (u : State) (i : Nat) (v : Byte) : Prop :=
  match u.block.wDir, u.block.wSrc with
  | .receive, _ => v = 0xFF
  | .send, .buf => u.env.race = false → v = u.mem.read (u.block.wBase.toNat + i)
  | .send, .hdr => u.block.hdr.toList[i]? = some v
  | .send, .trl => (trailer (isRead u.block))[i]? = some v
  | .send, .cmd0f => cmd0Frame[i]? = some v
  | .send, .resp => False

/-- The call that runs in v is the one that runs in u, with as many bytes completed. -/
structure SameCall (u v : State) : Prop where
  cfg : v.cfg = u.cfg
  race : v.env.race = u.env.race
  cfl : v.block.cfl = u.block.cfl
  op : v.block.op = u.block.op
  wDir : v.block.wDir = u.block.wDir
  wSrc : v.block.wSrc = u.block.wSrc
  wBase : v.block.wBase = u.block.wBase
  wSize : v.block.wSize = u.block.wSize
  wOff : v.block.wOff = u.block.wOff
  hdr : v.block.hdr = u.block.hdr
  mem : u.block.wDir = .send → v.mem = u.mem

theorem SentByte.same {u v : State} {i : Nat} {x : Byte} (k : SameCall u v) (h : SentByte u i x) : SentByte v i x := by
  unfold SentByte isRead at *
  rw [k.wDir, k.wSrc, k.race, k.wBase, k.hdr, k.op]
  cases hd : u.block.wDir with
  | receive => simpa only [hd] using h
  | send => rw [k.mem hd]; simpa only [hd] using h

/-- The first n bytes of the burst, as far as it goes, stand in the words `ws` (R117). -/
def PackedWords (u : State) (ws : List Word) (n : Nat) : Prop :=
  ∀ x, x < n → x < u.block.blen.toNat →
    ∃ w, ws[x / 4]? = some w ∧ SentByte u (u.block.wOff.toNat + x) (byteOf w (x % 4))

theorem PackedWords.same {u v : State} {ws : List Word} {n : Nat} (h : PackedWords u ws n) (k : SameCall u v)
    (hb : v.block.blen = u.block.blen) : PackedWords v ws n := by
  intro x hx hxb
  obtain ⟨w, hw, hs⟩ := h x hx (hb ▸ hxb)
  exact ⟨w, hw, k.wOff ▸ hs.same k⟩

/-- A further word, of which no byte counts yet. -/
theorem PackedWords.append {u : State} {ws : List Word} {n : Nat} (h : PackedWords u ws n) (w : Word) :
    PackedWords u (ws ++ [w]) n := by
  intro x hx hxb
  obtain ⟨w', hw, hs⟩ := h x hx hxb
  obtain ⟨hlt, -⟩ := List.getElem?_eq_some_iff.mp hw
  exact ⟨w', by rw [List.getElem?_append_left hlt, hw], hs⟩

/-- Byte k of the last word, packed. -/
theorem PackedWords.setByte {u : State} {ws : List Word} {l : Word} {k : Nat} {v : Byte} (hk : k < 4)
    (h : PackedWords u (ws ++ [l]) (4 * ws.length + k))
    (hv : 4 * ws.length + k < u.block.blen.toNat → SentByte u (u.block.wOff.toNat + (4 * ws.length + k)) v) :
    PackedWords u (ws ++ [setByte l k v]) (4 * ws.length + k + 1) := by
  intro x hx hxb
  by_cases hlast : x / 4 = ws.length
  · refine ⟨Machine.setByte l k v, by rw [hlast]; simp, ?_⟩
    by_cases hxk : x = 4 * ws.length + k
    · subst hxk
      rw [show (4 * ws.length + k) % 4 = k by omega, byteOf_setByte _ _ hk hk, if_pos rfl]
      exact hv hxb
    · obtain ⟨w, hw, hs⟩ := h x (by omega) hxb
      rw [hlast] at hw
      obtain rfl : l = w := by simpa using hw
      rw [byteOf_setByte _ _ hk (Nat.mod_lt _ (by omega)), if_neg (by omega)]
      exact hs
  · obtain ⟨w, hw, hs⟩ := h x (by omega) hxb
    rw [List.getElem?_append_left (by omega)] at hw
    exact ⟨w, by rw [List.getElem?_append_left (by omega), hw], hs⟩

/-- The dummy word that a receive sends (R102). -/
theorem PackedWords.dummy {u : State} {ws : List Word} (hd : u.block.wDir = .receive)
    (h : PackedWords u ws (4 * ws.length)) : PackedWords u (ws ++ [dummyWord]) (4 * ws.length + 4) := by
  intro x hx hxb
  by_cases hlast : x / 4 = ws.length
  · refine ⟨dummyWord, by rw [hlast]; simp, ?_⟩
    have hbyte : ∀ k < 4, byteOf dummyWord k = 0xFF := by decide
    simpa only [SentByte, hd] using hbyte (x % 4) (Nat.mod_lt _ (by omega))
  · exact h.append dummyWord x (by omega) hxb

/-- The byte that a send fetches (R24) is the one that the call puts on the link. -/
theorem srcByte_sent {u : State} (h : BlockOk u.block) (hn : u.block.wte ≠ .none) (hd : u.block.wDir = .send) {i : Nat}
    (hi : i < u.block.wSize.toNat) :
    ∃ v t, srcByte i u = .next (v, t) ∧ SentByte u i v ∧ SameButBytes u t ∧ t.env.answers = u.env.answers
      ∧ t.env.race = u.env.race := by
  obtain ⟨v, t, ht, hsame⟩ := srcByte_total h hn hd hi
  refine ⟨v, t, ht, ?_, hsame, ?_, (srcByte_actOnly ht).race⟩
  · simp only [SentByte, hd]
    rcases srcByte_next ht with ⟨hs, hm⟩ | ⟨-, ⟨hs, hv⟩ | ⟨hs, hv⟩ | ⟨hs, hv⟩⟩
    · simp only [hs]; exact (memRead_next hm).2.1
    · simp only [hs]; exact hv
    · simp only [hs]; exact hv
    · simp only [hs]; exact hv
  · rcases srcByte_next ht with ⟨-, hm⟩ | ⟨rfl, -⟩
    · unfold memRead at hm
      split at hm
      · cases hm
      · split at hm <;> cases hm <;> rfl
    · rfl

end Sys2Proof.Machine

namespace Sys2Proof.Machine

/-! ## Where a call stands in its burst -/

/-- The bytes put on the link and taken from it so far. -/
structure Linked (W I : List Byte) (u : State) : Prop where
  out : u.wireOut = W
  inn : u.wireIn = I

theorem ActOnly.wireIn {s t : State} (h : ActOnly s t) : t.wireIn = s.wireIn := by
  obtain ⟨es, hes, rfl | ⟨e, rfl, he⟩⟩ := h.trace
  · rw [State.wireIn, hes, List.append_nil]; rfl
  · have hnone : Event.wireIn? e = none := by
      cases e with
      | wire o i => exact absurd rfl (he o i)
      | _ => rfl
    rw [State.wireIn, hes, List.filterMap_append, List.filterMap_cons_none hnone, List.filterMap_nil, List.append_nil]
    rfl

theorem Linked.act {W I : List Byte} {u v : State} (h : Linked W I u) (ha : Machine.act u = .next v) : Linked W I v :=
  ⟨(act_actOnly ha).wireOut.trans h.out, (act_actOnly ha).wireIn.trans h.inn⟩

/-- FL holds the burst's length minus one (R99). -/
def FlSet (u : State) : Prop := (ctlFl u.periph.ctl).toNat = u.block.blen.toNat - 1

/-- The words written to TXD, and the word being packed, hold the bytes of the burst so far (R117). -/
def WordPacked (u : State) : Prop :=
  match u.block.phase with
  | .byte k => PackedWords u (u.periph.tx ++ [u.block.latch]) (4 * u.periph.tx.length + k.val)
  | .last => PackedWords u (u.periph.tx ++ [u.block.latch]) (4 * u.periph.tx.length + 4)
  | _ => PackedWords u u.periph.tx (4 * u.periph.tx.length)

/-- RX words of the burst that B7 has read, when it is at this phase of its word wj. -/
def rxTaken (b : Block) : Nat := b.wj.toNat + match b.phase with | .byte _ => 1 | _ => 0

/-- B7 (R119): the frame that began in `base` exchanges the words `ws`, and the block has read the RX words `taken`. -/
structure RxStage (W I : List Byte) (base : State) (ws taken : List Word) (u : State) : Prop where
  frame : FrameGoes base ws u.block.blen.toNat (u.untake taken)
  cfg : base.cfg = u.cfg
  rxNone : base.periph.rx = []
  linked : Linked W I base
  words : ws.length = burstWords u.block
  sent : PackedWords u ws u.block.blen.toNat
  count : taken.length = rxTaken u.block
  ready : u.block.phase = .last → u.periph.rx ≠ []
  latch : ∀ k, u.block.phase = .byte k → ∃ l, taken = l ++ [u.block.latch]
  resp : u.block.wSrc = .resp → ∀ k, u.block.phase = .byte k → 0 < k.val → u.block.resp = byteOf u.block.latch 0

/-- The bytes `o` and `d` of the burst have been exchanged (R121). -/
structure Exchanged (W I : List Byte) (o d : List Byte) (u : State) : Prop where
  linked : Linked (W ++ o) (I ++ d) u
  lenOut : o.length = u.block.blen.toNat
  lenIn : d.length = u.block.blen.toNat
  sent : ∀ x v, o[x]? = some v → SentByte u (u.block.wOff.toNat + x) v
  resp : u.block.wSrc = .resp → d = [u.block.resp]

/-- Where the sequencer stands in a burst (R113), and what the registers, the FIFOs and the frame hold there. W and I are
the link's bytes before the burst. -/
inductive BurstAt (W I : List Byte) (u : State) : Prop
  | before (hw : u.block.wte = .none ∨ u.block.wte = .top ∨ u.block.wte = .b1TrigOff) (hs : Settled u)
      (hl : Linked W I u)
  | drain (hw : u.block.wte = .b2Drain) (hs : Settled u) (hx : XchOff u)
      (hp : u.block.phase = .last → u.periph.rx ≠ []) (hl : Linked W I u)
  | txe (hw : u.block.wte = .b3Txe) (hs : Settled u) (hx : XchOff u) (hr : u.periph.rx = [])
      (hp : u.block.phase ≠ .giveUp) (hl : Linked W I u)
  | fl (hw : u.block.wte = .b4Fl) (hs : Settled u) (hx : XchOff u) (hr : u.periph.rx = [])
      (hlatch : u.block.phase = .last → u.block.latch &&& u.cfg.xchMask = 0) (hl : Linked W I u)
  | words (hw : u.block.wte = .b5Words) (hn : u.periph.frame = none) (hx : XchOff u) (hr : u.periph.rx = [])
      (hfl : FlSet u) (ht : u.periph.tx.length = u.block.wj.toNat) (hp : u.block.phase ≠ .giveUp) (hpk : WordPacked u)
      (hl : Linked W I u)
  | trigOn (hw : u.block.wte = .b6TrigOn) (hn : u.periph.frame = none) (hx : XchOff u) (hr : u.periph.rx = [])
      (hfl : FlSet u) (hlatch : u.block.phase = .last → u.block.latch = ctlValue u.cfg u.periph)
      (ht : u.periph.tx.length = burstWords u.block) (hpk : PackedWords u u.periph.tx u.block.blen.toNat)
      (hl : Linked W I u)
  | rx (hw : u.block.wte = .b7Rx) (base : State) (ws taken : List Word) (h : RxStage W I base ws taken u)
  | done (hw : u.block.wte = .next) (hs : Settled u) (hr : u.periph.rx = []) (o d : List Byte)
      (h : Exchanged W I o d u)

/-! ### The peripheral's share of a burst -/

theorem PeriphOnly.sameCall {u v : State} (k : PeriphOnly u v) : SameCall u v := by
  obtain ⟨hcfg, hblock, -, hmem, -, -, -, -, -, -, hrace, -⟩ := k
  exact ⟨hcfg, hrace, by rw [hblock], by rw [hblock], by rw [hblock], by rw [hblock], by rw [hblock], by rw [hblock],
    by rw [hblock], by rw [hblock], fun _ => hmem⟩

/-- A burst has at least one word. -/
theorem burstWords_eq (b : Block) : burstWords b = (b.blen.toNat + 3) / 4 := rfl

theorem RxStage.room {W I : List Byte} {base : State} {ws taken : List Word} {u : State}
    (h : RxStage W I base ws taken u) (hcfg : u.cfg.wf = true) (hmax : u.block.blen.toNat ≤ burstMax) :
    base.periph.rx.length + ws.length ≤ base.cfg.rxDepth := by
  have hdepth := (Config.wf_depths hcfg).2
  rw [h.rxNone, h.words, h.cfg, burstWords_eq]
  unfold burstMax at hmax
  simp; omega

/-- The peripheral's share leaves a burst where it stands, its frame further. -/
theorem BurstAt.breathe {W I : List Byte} {u : State} (h : BurstAt W I u) (hcfg : u.cfg.wf = true)
    (hok : BlockOk u.block) : ∃ t, breathe u = .next t ∧ BurstAt W I t ∧ Share u t := by
  have hnone : u.periph.frame = none → ∃ t, Machine.breathe u = .next t ∧ BurstAt W I t ∧ Share u t :=
    fun hf => ⟨u, breathe_of_no_frame hf, h, share_of_no_frame hf⟩
  cases h with
  | before hw hs hl => exact hnone hs.1
  | drain hw hs hx hp hl => exact hnone hs.1
  | txe hw hs hx hr hp hl => exact hnone hs.1
  | fl hw hs hx hr hlatch hl => exact hnone hs.1
  | words hw hn => exact hnone hn
  | trigOn hw hn => exact hnone hn
  | done hw hs => exact hnone hs.1
  | rx hw base ws taken h =>
    obtain ⟨⟨-, hmax, -⟩, -⟩ := hok.burst (.inr hw)
    obtain ⟨t, ht, hgo, hshare⟩ := h.frame.breathe h.words (h.room hcfg hmax)
    have hblock := hshare.only.block
    refine ⟨t, ht, .rx (by rw [hblock, hw]) base ws taken ⟨?_, ?_, h.rxNone, h.linked, ?_, ?_, ?_, ?_, ?_, ?_⟩,
      hshare⟩
    · rw [hblock]; exact hgo
    · exact h.cfg.trans hshare.only.cfg.symm
    · rw [hblock]; exact h.words
    · rw [hblock]; exact h.sent.same hshare.only.sameCall (by rw [hblock])
    · rw [hblock]; exact h.count
    · rw [hblock]
      intro hp he
      have hpre := hshare.rx
      rw [he] at hpre
      exact h.ready hp (List.prefix_nil.mp hpre)
    · rw [hblock]; exact h.latch
    · rw [hblock]; exact h.resp

/-! ### What the frame has left in the FIFOs -/

section
variable {s : State} {ws taken : List Word} {n : Nat} {u : State}

/-- The RX words read and still in the FIFO are those of the frame's complete words. -/
theorem FrameGoes.rx (h : FrameGoes s ws n (u.untake taken)) (hrx : s.periph.rx = []) :
    (∃ f, u.periph.frame = some f ∧ f.i < f.n ∧ f.n = n ∧ taken.length + u.periph.rx.length = f.i / 4)
    ∨ (u.periph.frame = none ∧ taken.length + u.periph.rx.length = ws.length) := by
  have hlen : ∀ {i ins rs}, FrameSent s ws [] i ins rs (u.untake taken) →
      taken.length + u.periph.rx.length = rs.length := by
    intro i ins rs hsent
    have hl := congrArg List.length hsent.rx
    simpa [hrx] using hl
  rcases h with ⟨i, hi, ins, rs, f, hsent, hf, hn, hfi, hrs, -⟩ | ⟨ins, rs, hsent, hf, hrs, -⟩
  · exact .inl ⟨f, hf, by omega, hn, by rw [hlen hsent, hrs, hfi]⟩
  · exact .inr ⟨hf, by rw [hlen hsent, hrs]⟩

/-- When the block has read as many RX words as were sent, the frame is over and its bytes are those words'. -/
theorem FrameGoes.over (h : FrameGoes s ws n (u.untake taken)) (hrx : s.periph.rx = [])
    (hws : ws.length = (n + 3) / 4) (hall : taken.length = ws.length) :
    u.periph.frame = none ∧ u.periph.tx = [] ∧ u.periph.rx = []
      ∧ u.wireOut = s.wireOut ++ (laneBytes ws).take n ∧ u.wireIn = s.wireIn ++ (laneBytes taken).take n
      ∧ ((laneBytes taken).take n).length = n := by
  rcases h.rx hrx with ⟨f, -, hlt, hn, hlen⟩ | ⟨hf, hlen⟩
  · omega
  · have hr : u.periph.rx = [] := List.length_eq_zero_iff.mp (by omega)
    rcases h with ⟨i, hi, ins, rs, f, hsent, hf', -⟩ | ⟨ins, rs, hsent, -, hrs, hins⟩
    · exact absurd (hf'.symm.trans hf) (by simp)
    · have htaken : taken = rs := by simpa [hrx, hr] using hsent.rx
      refine ⟨hf, ?_, hr, hsent.out, ?_, ?_⟩
      · have htx : u.periph.tx = ws.drop rs.length ++ [] := hsent.tx
        rw [htx, hrs, List.drop_length]; rfl
      · rw [htaken, hins]; exact hsent.inn
      · rw [htaken, hins, hsent.count]

/-- The frame looks at nothing else of the state. -/
theorem FrameGoes.congr {u' : State} (h : FrameGoes s ws n u) (hcfg : u'.cfg = u.cfg) (hp : u'.periph = u.periph)
    (hout : u'.wireOut = u.wireOut) (hin : u'.wireIn = u.wireIn) : FrameGoes s ws n u' := by
  have hsent : ∀ {i ins rs}, FrameSent s ws [] i ins rs u → FrameSent s ws [] i ins rs u' := by
    rintro i ins rs ⟨h1, h2, h3, h4, h5, h6, h7⟩
    exact ⟨hcfg.trans h1, by rw [hp, h2], by rw [hp, h3], by rw [hp, h4], h5, hout.trans h6, hin.trans h7⟩
  rcases h with ⟨i, hi, ins, rs, f, h, hf, hrest⟩ | ⟨ins, rs, h, hf, hrest⟩
  · exact .inl ⟨i, hi, ins, rs, f, hsent h, by rw [hp, hf], hrest⟩
  · exact .inr ⟨ins, rs, hsent h, by rw [hp, hf], hrest⟩

end

end Sys2Proof.Machine

namespace Sys2Proof.Machine

/-! ## One action of a burst -/

@[simp] theorem readSta_block (s : State) : (readSta s).2.block = s.block := rfl
@[simp] theorem readCtl_block (s : State) : (readCtl s).2.block = s.block := rfl
@[simp] theorem readCtl_periph (s : State) : (readCtl s).2.periph = s.periph := rfl
@[simp] theorem readSta_periph (s : State) : (readSta s).2.periph = s.periph := rfl

/-- R206: a poll budget that is a number covers a full RX FIFO. -/
theorem Config.wf_poll_depth {c : Config} (h : c.wf = true) {n : Nat} (hn : c.pollLimit = some n) : c.rxDepth ≤ n := by
  simp only [Config.wf, Config.wfPoll, hn, Bool.and_eq_true, decide_eq_true_eq] at h
  obtain ⟨⟨⟨⟨⟨⟨-, h1⟩, -⟩, -⟩, -⟩, -⟩, -⟩ := h
  exact h1

/-- Bytes left of the frame in progress. -/
def frameLeft (p : Periph) : Nat :=
  match p.frame with
  | none => 0
  | some f => f.n - f.i

/-- The actions of a word of B7 that are behind its phase. -/
def rxSpent : Phase → Nat
  | .start => 0
  | .last => 1
  | .byte k => 2 + k.val
  | .giveUp => 0

/-- A bound on the ticks left of the burst. -/
def burstLeft (u : State) : Nat :=
  match u.block.wte with
  | .none => 0
  | .top => 2 * u.periph.rx.length + 199
  | .b1TrigOff => 2 * u.periph.rx.length + (if u.block.phase = .last then 197 else 198)
  | .b2Drain => 2 * u.periph.rx.length + (if u.block.phase = .last then 195 else 196)
  | .b3Txe => 194
  | .b4Fl => if u.block.phase = .last then 192 else 193
  | .b5Words => 140 + (6 * (8 - u.block.wj.toNat) - phaseSpent u.block.phase)
  | .b6TrigOn => if u.block.phase = .last then 139 else 140
  | .b7Rx => 50 + frameLeft u.periph + (6 * (8 - u.block.wj.toNat) - rxSpent u.block.phase)
  | .next => 40

/-- A bound on the ticks left of the call, when each wait holds as soon as a healthy peripheral lets it. -/
def callLeft (u : State) : Nat := 200 * (u.block.wSize.toNat - u.block.wOff.toNat) + burstLeft u

/-- No wait of the call has used up its budget, and none will: the stale words fit (R115), and at a poll of B7 the frame
is k bytes ahead of the polls made for the word (R112). -/
structure Timely (k : Nat) (u : State) : Prop where
  phase : u.block.wte ≠ .none → u.block.phase ≠ .giveUp
  stale : u.block.wte = .none ∨ u.block.wte = .top ∨ u.block.wte = .b1TrigOff → u.staleFits
  drain : u.block.wte = .b2Drain → ∀ n, u.cfg.pollLimit = some n → u.block.polls.toNat + u.periph.rx.length ≤ n
  frame : u.block.wte = .b7Rx → u.block.phase = .start → ∀ f, u.periph.frame = some f →
    u.block.polls.toNat + k + 4 * u.block.wj.toNat ≤ f.i

/-- Outside the waits a call is timely when its next action is not the raise. -/
theorem timely_of {k : Nat} {u : State} (hp : u.block.phase ≠ .giveUp)
    (hw : u.block.wte = .b3Txe ∨ u.block.wte = .b4Fl ∨ u.block.wte = .b5Words ∨ u.block.wte = .b6TrigOn
      ∨ u.block.wte = .next ∨ u.block.wte = .b7Rx ∧ u.block.phase ≠ .start) : Timely k u := by
  refine ⟨fun _ => hp, fun h => ?_, fun h => ?_, fun h hs => ?_⟩
  · rcases hw with hw | hw | hw | hw | hw | ⟨hw, -⟩ <;> simp [hw] at h
  · rcases hw with hw | hw | hw | hw | hw | ⟨hw, -⟩ <;> simp [hw] at h
  · rcases hw with hw | hw | hw | hw | hw | ⟨-, hw⟩
    · simp [hw] at h
    · simp [hw] at h
    · simp [hw] at h
    · simp [hw] at h
    · simp [hw] at h
    · exact absurd hs hw

/-- From u to v the call comes nearer to its end, unless u waits for the frame. -/
def Shortens (u v : State) : Prop :=
  callLeft v < callLeft u ∨ callLeft v = callLeft u ∧ ∃ f, u.periph.frame = some f

/-- One action that goes on with the burst. -/
structure BurstAct (W I : List Byte) (u v : State) : Prop where
  act : act u = .next v
  sched : v.env.sched = u.env.sched
  answers : v.env.answers = u.env.answers
  disturbed : v.periph.disturbed = u.periph.disturbed
  same : SameCall u v
  place : BurstAt W I v
  inCall : v.block.wte ≠ .none
  timely : Timely 1 u → Timely 0 v ∧ Shortens u v

/-- A move of the registers that hold the place in the burst stays in the call. -/
theorem sameCall_withBlock {u t : State} {b : Block} (hcfg : t.cfg = u.cfg) (hrace : t.env.race = u.env.race)
    (hmem : u.block.wDir = .send → t.mem = u.mem)
    (h : b = { u.block with
      wte := b.wte, phase := b.phase, latch := b.latch, wj := b.wj, polls := b.polls, blen := b.blen, resp := b.resp }) :
    SameCall u (t.withBlock b) := by
  constructor
  · exact hcfg
  · exact hrace
  · change b.cfl = _; rw [h]
  · change b.op = _; rw [h]
  · change b.wDir = _; rw [h]
  · change b.wSrc = _; rw [h]
  · change b.wBase = _; rw [h]
  · change b.wSize = _; rw [h]
  · change b.wOff = _; rw [h]
  · change b.hdr = _; rw [h]
  · exact hmem

/-- The part of the bound that the call's registers make does not move inside a burst. -/
theorem SameCall.callLeft_lt {u v : State} (h : SameCall u v) (hb : burstLeft v < burstLeft u) :
    callLeft v < callLeft u := by
  unfold callLeft
  rw [h.wSize, h.wOff]
  omega

theorem SameCall.callLeft_eq {u v : State} (h : SameCall u v) (hb : burstLeft v = burstLeft u) :
    callLeft v = callLeft u := by
  unfold callLeft
  rw [h.wSize, h.wOff, hb]

theorem writeCtl_answers (v : Word) (s : State) : (writeCtl v s).env.answers = s.env.answers := by
  unfold writeCtl writeCtlEffect
  split
  · split <;> rfl
  · split <;> rfl

/-- With no frame running a CTL write disturbs nothing (R216). -/
theorem writeCtl_disturbed (v : Word) {s : State} (h : s.periph.frame = none) :
    (writeCtl v s).periph.disturbed = s.periph.disturbed := by
  unfold writeCtl writeCtlEffect
  rw [h]
  split
  · rfl
  · split <;> rfl

/-- A CTL write made with no frame running, and a move inside the burst. -/
theorem burstAct_writeCtl {W I : List Byte} {u : State} {x : Word} {b : Block} (hn : u.periph.frame = none)
    (hact : act u = .next ((writeCtl x u).withBlock b))
    (hb : b = { u.block with
      wte := b.wte, phase := b.phase, latch := b.latch, wj := b.wj, polls := b.polls, blen := b.blen, resp := b.resp })
    (hplace : BurstAt W I ((writeCtl x u).withBlock b)) (hw : b.wte ≠ .none)
    (ht : Timely 1 u → Timely 0 ((writeCtl x u).withBlock b))
    (hless : burstLeft ((writeCtl x u).withBlock b) < burstLeft u) : BurstAct W I u ((writeCtl x u).withBlock b) := by
  have hsame : SameCall u ((writeCtl x u).withBlock b) :=
    sameCall_withBlock (writeCtl_cfg x u) (writeCtl_actOnly x u).race (fun _ => writeCtl_mem x u) hb
  exact ⟨hact, writeCtl_sched x u, writeCtl_answers x u, writeCtl_disturbed x hn, hsame, hplace, hw,
    fun h => ⟨ht h, .inl (hsame.callLeft_lt hless)⟩⟩

/-- A move inside the burst after an access that changes no FIFO. -/
theorem burstAct_quiet {W I : List Byte} {u t : State} {b : Block} (hact : act u = .next (t.withBlock b))
    (hcfg : t.cfg = u.cfg) (hrace : t.env.race = u.env.race) (hs : t.env.sched = u.env.sched)
    (ha : t.env.answers = u.env.answers) (hd : t.periph.disturbed = u.periph.disturbed)
    (hmem : u.block.wDir = .send → t.mem = u.mem)
    (hb : b = { u.block with
      wte := b.wte, phase := b.phase, latch := b.latch, wj := b.wj, polls := b.polls, blen := b.blen, resp := b.resp })
    (hplace : BurstAt W I (t.withBlock b)) (hw : b.wte ≠ .none)
    (ht : Timely 1 u → Timely 0 (t.withBlock b)) (hless : Timely 1 u → burstLeft (t.withBlock b) < burstLeft u) :
    BurstAct W I u (t.withBlock b) := by
  have hsame : SameCall u (t.withBlock b) := sameCall_withBlock hcfg hrace hmem hb
  exact ⟨hact, hs, ha, hd, hsame, hplace, hw, fun h => ⟨ht h, .inl (hsame.callLeft_lt (hless h))⟩⟩

/-- B6 writes no FIFO-clear bit: it read them as 0, and XCH is none of them (R40, R206). -/
theorem ctlTrigOn_and_clear {c : Config} (h : c.wf = true) {v : Word} {p : Periph} (hv : v = ctlValue c p) :
    ctlTrigOn c v &&& clearMask c = 0 := by
  have hread : ctlValue c p &&& clearMask c = 0 := by
    rw [ctlValue, BitVec.and_assoc, BitVec.and_comm (~~~clearMask c), BitVec.and_not_self]
    exact BitVec.and_zero
  rw [hv, ctlTrigOn, BitVec.and_comm, BitVec.and_or_distrib_left, BitVec.and_comm, hread, BitVec.and_comm,
    (Config.wf_xch h).2.1]
  rfl

section
variable {W I : List Byte} {u : State}

/-- B1 (R114). -/
theorem burstAct_trigOff (hcfg : u.cfg.wf = true) (hw : u.block.wte = .b1TrigOff) (hs : Settled u)
    (hl : Linked W I u) : ∃ v, BurstAct W I u v := by
  have hact : act u = .next (trigOff u) := by rw [act_eq_of_wte hw (by simp), wteAct, hw]
  by_cases hp : u.block.phase = .last
  · obtain ⟨hs', hx', hrx⟩ := writeCtl_settled hcfg hs (ctlTrigOff_and_xch u.cfg u.block.latch)
    rw [trigOff, hp, goPoll, writeCtl_block] at hact
    refine ⟨_, burstAct_writeCtl hs.1 hact rfl (.drain rfl hs' hx' (by simp) (hl.act hact)) (by simp) (fun h => ?_) ?_⟩
    · refine ⟨by simp, by simp, fun _ n hn => ?_, by simp⟩
      have hle := h.stale (.inr (.inr hw)) n ((writeCtl_cfg _ u) ▸ hn)
      simp only [State.withBlock_block, State.withBlock_periph]
      change 0 + _ ≤ n
      omega
    · simp only [burstLeft, hw, hp, State.withBlock_block, State.withBlock_periph]
      simp; omega
  · rw [trigOff_of_not_last hp] at hact
    refine ⟨_, burstAct_quiet hact rfl rfl rfl rfl rfl (fun _ => rfl) rfl
      (.before (.inr (.inr hw)) hs (hl.act hact)) (by simp [hw]) (fun h => ?_) fun _ => ?_⟩
    · exact ⟨by simp, fun _ => h.stale (.inr (.inr hw)), by simp [hw], by simp⟩
    · simp [burstLeft, hw, hp]

/-- B2 (R115). -/
theorem burstAct_drain (hcfg : u.cfg.wf = true) (hw : u.block.wte = .b2Drain) (hs : Settled u) (hx : XchOff u)
    (hp : u.block.phase = .last → u.periph.rx ≠ []) (hg : u.block.phase ≠ .giveUp) (hl : Linked W I u) :
    ∃ v, BurstAct W I u v := by
  have hact : act u = Machine.drain u := by rw [act_eq_of_wte hw (by simp), wteAct, hw]
  by_cases hlast : u.block.phase = .last
  · obtain ⟨w, rest, hrx⟩ := List.exists_cons_of_ne_nil (hp hlast)
    rw [Machine.drain, hlast] at hact
    simp only [readRxd_of_cons hrx, andThen_next] at hact
    refine ⟨_, burstAct_quiet hact rfl rfl rfl rfl rfl (fun _ => rfl) rfl (.drain hw hs hx (by simp) (hl.act hact))
      (by simp [hw]) (fun h => ?_) fun _ => ?_⟩
    · refine ⟨by simp, by simp [hw], fun _ n hn => ?_, by simp [hw]⟩
      have hle := h.drain hw n hn
      have hlt := (Config.wf_poll hcfg hn).2
      rw [hrx, List.length_cons] at hle
      change (u.block.polls + 1).toNat + rest.length ≤ n
      rw [toNat_succ_of_lt (n := n) (by omega) hlt]
      omega
    · simp [burstLeft, hw, hlast, hrx]; omega
  · rw [drain_of_poll hlast hg] at hact
    have hrxe : (readSta u).1.getLsbD u.cfg.rxeBit = rxEmpty u.periph := staValue_rxe hcfg u.periph _
    cases hr : u.periph.rx with
    | nil =>
      have hempty : rxEmpty u.periph = true := by simp [rxEmpty, hr]
      simp only [drainPoll, hrxe, hempty, if_true] at hact
      exact ⟨_, burstAct_quiet hact rfl rfl rfl rfl rfl (fun _ => rfl) rfl (.txe rfl hs hx hr (by simp) (hl.act hact))
        (by simp) (fun _ => timely_of (by simp) (by simp)) fun _ => by simp [burstLeft, hw, hlast]⟩
    | cons w rest =>
      have hfull : rxEmpty u.periph = false := by simp [rxEmpty, hr]
      simp only [drainPoll, hrxe, hfull, Bool.false_eq_true, if_false] at hact
      have hrx : (readSta u).2.periph.rx ≠ [] := by simp [hr]
      cases hspent : pollsSpent u.cfg u.block.polls with
      | true =>
        simp only [hspent, if_true] at hact
        have hlate : ¬ Timely 1 u := fun h => by
          have hleft : pollsSpent u.cfg u.block.polls = false := pollsSpent_eq_false fun n hn => by
            have hle := h.drain hw n hn
            rw [hr, List.length_cons] at hle
            omega
          rw [hleft] at hspent; cases hspent
        exact ⟨_, burstAct_quiet hact rfl rfl rfl rfl rfl (fun _ => rfl) rfl (.drain hw hs hx (by simp) (hl.act hact))
          (by simp [hw]) (fun h => absurd h hlate) fun h => absurd h hlate⟩
      | false =>
        simp only [hspent, Bool.false_eq_true, if_false] at hact
        refine ⟨_, burstAct_quiet hact rfl rfl rfl rfl rfl (fun _ => rfl) rfl
          (.drain hw hs hx (fun _ => hrx) (hl.act hact)) (by simp [hw]) (fun h => ?_) fun _ => ?_⟩
        · exact ⟨by simp, by simp [hw], fun _ => h.drain hw, by simp⟩
        · simp [burstLeft, hw, hlast]

/-- B3 (R116): the TX FIFO is empty, so the wait holds at once. -/
theorem burstAct_txe (hcfg : u.cfg.wf = true) (hw : u.block.wte = .b3Txe) (hs : Settled u) (hx : XchOff u)
    (hr : u.periph.rx = []) (hp : u.block.phase ≠ .giveUp) (hl : Linked W I u) : ∃ v, BurstAct W I u v := by
  have hact : act u = waitTxe u := by rw [act_eq_of_wte hw (by simp), wteAct, hw]
  have hhold : StaTest.txe.holds u.cfg (readSta u).1 = true := by
    rw [show (readSta u).1 = staValue u.cfg u.periph _ from rfl, (staTestsSayWhatTheFifosHold _ _ _ hcfg).1, hs.2]
    rfl
  rw [waitTxe_of_poll hp, waitPoll_of_holds _ hhold] at hact
  exact ⟨_, burstAct_quiet hact rfl rfl rfl rfl rfl (fun _ => rfl) rfl (.fl rfl hs hx hr (by simp) (hl.act hact))
    (by simp) (fun _ => timely_of (by simp) (by simp)) fun _ => by simp [burstLeft, hw]⟩

/-- B4 (R116). -/
theorem burstAct_fl (hcfg : u.cfg.wf = true) (hok : BlockOk u.block) (hw : u.block.wte = .b4Fl) (hs : Settled u)
    (hx : XchOff u) (hr : u.periph.rx = []) (hlatch : u.block.phase = .last → u.block.latch &&& u.cfg.xchMask = 0)
    (hl : Linked W I u) : ∃ v, BurstAct W I u v := by
  have hact : act u = .next (setFl u) := by rw [act_eq_of_wte hw (by simp), wteAct, hw]
  obtain ⟨⟨hpos, -, -⟩, -⟩ := (burstOk_iff (by simp [hw]) (by simp [hw])).mp hok.burstOk
  by_cases hp : u.block.phase = .last
  · obtain ⟨hs', hx', hrx⟩ := writeCtl_settled (v := ctlFrameLen u.block.latch u.block.blen) hcfg hs
      ((ctlFrameLen_and_xch hcfg _ _).trans (hlatch hp))
    rw [setFl, hp, goWords, writeCtl_block] at hact
    rw [hr] at hrx
    have htx := hs'.2
    refine ⟨_, burstAct_writeCtl hs.1 hact rfl (.words rfl hs'.1 hx' (List.length_eq_zero_iff.mp (Nat.le_zero.mp hrx))
      ?_ (by simp [htx]) (by simp) ?_ (hl.act hact)) (by simp) (fun _ => timely_of (by simp) (by simp)) ?_⟩
    · simp only [FlSet, State.withBlock_periph, State.withBlock_block]
      rw [writeCtl_ctl, ctlFl_and_not_clear hcfg, toNat_ctlFl_frameLen _ hpos]
    · intro x hlt
      simp [htx] at hlt
    · simp [burstLeft, hw, hp, phaseSpent]
  · rw [setFl_of_not_last hp] at hact
    refine ⟨_, burstAct_quiet hact rfl rfl rfl rfl rfl (fun _ => rfl) rfl
      (.fl hw hs hx hr (fun _ => (and_not_clear_and_xch hcfg _).trans hx) (hl.act hact)) (by simp [hw])
      (fun _ => timely_of (by simp) (by simp [hw])) fun _ => ?_⟩
    simp [burstLeft, hw, hp]

/-- B6 (R118) starts the frame of the words in the TX FIFO. -/
theorem burstAct_trigOn (hcfg : u.cfg.wf = true) (hok : BlockOk u.block) (hd : u.periph.disturbed = false)
    (hw : u.block.wte = .b6TrigOn) (hn : u.periph.frame = none) (hx : XchOff u) (hr : u.periph.rx = []) (hfl : FlSet u)
    (hlatch : u.block.phase = .last → u.block.latch = ctlValue u.cfg u.periph)
    (ht : u.periph.tx.length = burstWords u.block) (hpk : PackedWords u u.periph.tx u.block.blen.toNat)
    (hl : Linked W I u) : ∃ v, BurstAct W I u v := by
  have hact : act u = .next (trigOn u) := by rw [act_eq_of_wte hw (by simp), wteAct, hw]
  obtain ⟨⟨hpos, hmax, -⟩, -⟩ := (burstOk_iff (by simp [hw]) (by simp [hw])).mp hok.burstOk
  unfold burstMax at hmax
  by_cases hp : u.block.phase = .last
  · have hset := ctlTrigOn_and_xch u.cfg u.block.latch
    have hframe := writeCtl_frame_started (Config.wf_xch hcfg).1 hx hset
    have hlen : (newFrame (ctlTrigOn u.cfg u.block.latch)).n = u.block.blen.toNat := by
      change (ctlFl (ctlTrigOn u.cfg u.block.latch)).toNat + 1 = u.block.blen.toNat
      rw [ctlFl_trigOn hcfg, hlatch hp, ctlValue, ctlFl_and_not_clear hcfg, hfl]
      omega
    obtain ⟨htx, hrx⟩ := writeCtl_fifos (s := u) (ctlTrigOn_and_clear hcfg (hlatch hp))
    rw [trigOn, hp, goWords, writeCtl_block] at hact
    refine ⟨_, burstAct_writeCtl hn hact rfl (.rx rfl _ u.periph.tx []
      ⟨.inl ⟨0, hpos, [], [], _, ⟨rfl, ?_, ?_, ?_, rfl, by simp, by simp⟩, hframe, hlen, rfl, rfl, by simp,
        by simp⟩,
        rfl, hrx.trans hr, hl.act hact, ht, ?_, rfl, by simp, by simp, by simp⟩) (by simp) (fun _ => ?_) ?_⟩
    · exact (writeCtl_disturbed _ hn).trans hd
    · exact htx.trans (List.append_nil _).symm
    · exact (List.append_nil _).symm
    · exact hpk.same (sameCall_withBlock (writeCtl_cfg _ u) (writeCtl_actOnly _ u).race (fun _ => writeCtl_mem _ u) rfl)
        rfl
    · refine ⟨by simp, by simp, by simp, fun _ _ f hf => ?_⟩
      exact Nat.zero_le _
    · have hleft : frameLeft (writeCtl (ctlTrigOn u.cfg u.block.latch) u).periph = u.block.blen.toNat := by
        rw [frameLeft, hframe, ← hlen]; rfl
      simp only [burstLeft, hw, hp, State.withBlock_block, State.withBlock_periph, hleft]
      simp [rxSpent]; omega
  · rw [trigOn_of_not_last hp] at hact
    refine ⟨_, burstAct_quiet hact rfl rfl rfl rfl rfl (fun _ => rfl) rfl
      (.trigOn hw hn hx hr hfl (fun _ => rfl) ht
        (hpk.same (sameCall_withBlock rfl rfl (fun _ => rfl) rfl) rfl) (hl.act hact)) (by simp [hw])
      (fun _ => timely_of (by simp) (by simp [hw])) fun _ => ?_⟩
    simp [burstLeft, hw, hp]

end

end Sys2Proof.Machine

namespace Sys2Proof.Machine

/-! ### The words of B5 -/

/-- Byte k of a send's word is packed with the byte that the call puts on the link there, and the word goes on. -/
theorem packByte_sent {u : State} {k : Fin 4} (h : BlockOk u.block) (hw : u.block.wte = .b5Words)
    (hd : u.block.wDir = .send) :
    ∃ t v p, packByte k u = .next (t.withBlock { u.block with latch := setByte u.block.latch k v, phase := p })
      ∧ SameButBytes u t ∧ t.env.answers = u.env.answers ∧ t.env.race = u.env.race
      ∧ (burstPos u.block k < u.block.blen.toNat → SentByte u (u.block.wOff.toNat + burstPos u.block k) v)
      ∧ ((∃ h : k.val + 1 < 4, p = .byte ⟨k.val + 1, h⟩) ∨ k.val = 3 ∧ p = .last) := by
  obtain ⟨⟨-, -, hle⟩, -⟩ := h.burst (.inl hw)
  have hdone : ∀ (t : State) (v : Byte), ∃ p,
      nextByte k (goPhase .last) (t.withBlock { u.block with latch := setByte u.block.latch k v })
          = t.withBlock { u.block with latch := setByte u.block.latch k v, phase := p }
        ∧ ((∃ h : k.val + 1 < 4, p = .byte ⟨k.val + 1, h⟩) ∨ k.val = 3 ∧ p = .last) := by
    intro t v
    have he := nextByte_eq k (fin := goPhase .last) (s := t.withBlock { u.block with latch := setByte u.block.latch k v })
      rfl
    rcases byteDone_cases k { u.block with latch := setByte u.block.latch k v, phase := .last }
        { u.block with latch := setByte u.block.latch k v } with ⟨hk, hb⟩ | ⟨hk, hb⟩
    · exact ⟨_, he.trans (congrArg (State.withBlock t) hb), .inl ⟨hk, rfl⟩⟩
    · exact ⟨_, he.trans (congrArg (State.withBlock t) hb), .inr ⟨hk, rfl⟩⟩
  unfold packByte
  by_cases hx : burstPos u.block k < u.block.blen.toNat
  · obtain ⟨v, t, hv, hsent, ht, ha, hr⟩ := srcByte_sent h (by simp [hw]) hd
      (i := u.block.wOff.toNat + burstPos u.block k) (by omega)
    obtain ⟨p, he, hp⟩ := hdone t v
    refine ⟨t, v, p, ?_, ht, ha, hr, fun _ => hsent, hp⟩
    simp only [hx, if_true, hv, andThen_next, ht.block]
    exact congrArg _ he
  · obtain ⟨p, he, hp⟩ := hdone u 0
    refine ⟨u, 0, p, ?_, ⟨rfl, rfl, rfl, rfl, rfl⟩, rfl, rfl, fun h => absurd h hx, hp⟩
    simp only [hx, if_false]
    exact congrArg _ he

/-- A send packs its bytes into a cleared word (R117). -/
theorem beginTxWord_of_send {s : State} (h : s.block.wDir = .send) :
    beginTxWord s = s.withBlock { s.block with latch := 0, phase := .byte 0 } := by
  unfold beginTxWord; rw [h]; rfl

/-- A receive sends the dummy word (R102, R117). -/
theorem beginTxWord_of_receive {s : State} (h : s.block.wDir = .receive) :
    beginTxWord s = s.withBlock { s.block with latch := dummyWord, phase := .last } := by
  unfold beginTxWord; rw [h]; rfl

section
variable {W I : List Byte} {u : State}

/-- A byte of a word of B5. -/
theorem burstAct_packs {k : Fin 4} (hok : BlockOk u.block) (hw : u.block.wte = .b5Words) (hd : u.block.wDir = .send)
    (hphase : u.block.phase = .byte k) (hn : u.periph.frame = none) (hx : XchOff u) (hr : u.periph.rx = [])
    (hfl : FlSet u) (ht : u.periph.tx.length = u.block.wj.toNat) (hpk : WordPacked u) (hl : Linked W I u) :
    ∃ v, BurstAct W I u v := by
  have hact : act u = packByte k u := by
    rw [act_eq_of_wte hw (by simp), wteAct, hw]
    simp only [txWords, hphase]
  obtain ⟨t, v, p, hpack, hsame, ha, hrace, hsent, hp⟩ := packByte_sent (k := k) hok hw hd
  rw [hpack] at hact
  simp only [WordPacked, hphase] at hpk
  have hpos : burstPos u.block k = 4 * u.periph.tx.length + k.val := by rw [burstPos, ht]
  rw [hpos] at hsent
  have hcall : SameCall u (t.withBlock { u.block with latch := setByte u.block.latch k v, phase := p }) :=
    sameCall_withBlock hsame.cfg hrace (fun _ => hsame.mem) rfl
  have hnext := (hpk.setByte k.isLt hsent).same hcall rfl
  have htx : t.periph.tx = u.periph.tx := by rw [hsame.periph]
  have hgive : p ≠ .giveUp := by rcases hp with ⟨_, rfl⟩ | ⟨_, rfl⟩ <;> simp
  refine ⟨_, burstAct_quiet hact hsame.cfg hrace hsame.sched ha (by rw [hsame.periph]) (fun _ => hsame.mem) rfl
    (.words hw ?_ ?_ ?_ ?_ ?_ hgive ?_ (hl.act hact)) (by simp [hw]) (fun _ => timely_of hgive (by simp [hw]))
    fun _ => ?_⟩
  · exact (congrArg Periph.frame hsame.periph).trans hn
  · change t.periph.ctl &&& t.cfg.xchMask = 0
    rw [hsame.periph, hsame.cfg, hx]
  · exact (congrArg Periph.rx hsame.periph).trans hr
  · change (ctlFl t.periph.ctl).toNat = _
    rw [hsame.periph]; exact hfl
  · exact (congrArg List.length htx).trans ht
  · unfold WordPacked
    simp only [State.withBlock_block, State.withBlock_periph, htx]
    rcases hp with ⟨_, rfl⟩ | ⟨hk, rfl⟩
    · exact hnext
    · rw [show 4 * u.periph.tx.length + k.val + 1 = 4 * u.periph.tx.length + 4 by omega] at hnext
      exact hnext
  · obtain ⟨⟨-, hmax, -⟩, hj⟩ := hok.burst (.inl hw)
    rw [burstWords_eq] at hj
    unfold burstMax at hmax
    simp only [burstLeft, State.withBlock_block, hw, hphase]
    rcases hp with ⟨_, rfl⟩ | ⟨hk, rfl⟩
    · simp only [phaseSpent]; omega
    · simp only [phaseSpent, hk]; omega

/-- A word of B5 is written to TXD. -/
theorem burstAct_txdWritten (hcfg : u.cfg.wf = true) (hok : BlockOk u.block) (hw : u.block.wte = .b5Words)
    (hphase : u.block.phase = .last) (hn : u.periph.frame = none) (hx : XchOff u) (hr : u.periph.rx = [])
    (hfl : FlSet u) (ht : u.periph.tx.length = u.block.wj.toNat) (hpk : WordPacked u) (hl : Linked W I u) :
    ∃ v, BurstAct W I u v := by
  obtain ⟨⟨-, hmax, -⟩, hj⟩ := hok.burst (.inl hw)
  have hsucc := toNat_wj_succ hmax hj
  have hwords : burstWords u.block ≤ 8 := by unfold burstWords; unfold burstMax at hmax; omega
  have hroom : u.periph.tx.length < u.cfg.txDepth := by
    have hdepth := (Config.wf_depths hcfg).1
    omega
  have hact : act u = txWords u := by rw [act_eq_of_wte hw (by simp), wteAct, hw]
  simp only [txWords, hphase, writeTxd_of_room _ hroom, andThen_next, nextWord_goWte, State.log_block,
    State.withPeriph_block] at hact
  simp only [WordPacked, hphase] at hpk
  have hlen : (u.periph.tx ++ [u.block.latch]).length = (u.block.wj + 1).toNat := by
    rw [hsucc, List.length_append, ht]; rfl
  have hrest : u.block.blen.toNat ≤ 4 * u.periph.tx.length + 4 ∨ (u.block.wj + 1).toNat < burstWords u.block := by
    rw [burstWords_eq, hsucc, ht]; omega
  rcases wordDone_cases .b6TrigOn u.block with ⟨hmore, he⟩ | ⟨hall, he⟩ <;> rw [he] at hact
  · refine ⟨_, burstAct_quiet hact rfl rfl rfl rfl rfl (fun _ => rfl) rfl
      (.words hw hn hx hr hfl hlen (by simp) ?_ (hl.act hact)) (by simp [hw])
      (fun _ => timely_of (by simp) (by simp [hw])) fun _ => ?_⟩
    · have hsame := hpk.same (sameCall_withBlock (b := { u.block with wj := u.block.wj + 1, phase := .start, polls := 0 })
        (t := (u.withPeriph { u.periph with tx := u.periph.tx ++ [u.block.latch] }).log (.mmioWrite .txd u.block.latch))
        rfl rfl (fun _ => rfl) rfl) rfl
      simpa [WordPacked, Nat.mul_add] using hsame
    · simp only [burstLeft, State.withBlock_block, hw, hphase, hsucc, phaseSpent]
      omega
  · refine ⟨_, burstAct_quiet hact rfl rfl rfl rfl rfl (fun _ => rfl) rfl
      (.trigOn rfl hn hx hr hfl (by simp) ?_ ?_ (hl.act hact)) (by simp)
      (fun _ => timely_of (by simp) (by simp)) fun _ => ?_⟩
    · refine hlen.trans (Nat.le_antisymm ?_ hall)
      change (u.block.wj + 1).toNat ≤ burstWords u.block
      omega
    · intro x hxb _
      exact hpk.same (sameCall_withBlock rfl rfl (fun _ => rfl) rfl) rfl x
        (lt_of_lt_of_le hxb (hrest.resolve_right (Nat.not_lt.mpr hall))) hxb
    · simp only [burstLeft, State.withBlock_block, hw, hphase, phaseSpent]
      simp; omega

/-- B5 (R117). -/
theorem burstAct_words (hcfg : u.cfg.wf = true) (hok : BlockOk u.block) (hph : PhaseOk u.block)
    (hw : u.block.wte = .b5Words) (hn : u.periph.frame = none) (hx : XchOff u) (hr : u.periph.rx = []) (hfl : FlSet u)
    (ht : u.periph.tx.length = u.block.wj.toNat) (hp : u.block.phase ≠ .giveUp) (hpk : WordPacked u)
    (hl : Linked W I u) : ∃ v, BurstAct W I u v := by
  cases hphase : u.block.phase with
  | start =>
    have hact : act u = txWords u := by rw [act_eq_of_wte hw (by simp), wteAct, hw]
    obtain ⟨⟨-, hmax, -⟩, hj⟩ := hok.burst (.inl hw)
    have hwords : burstWords u.block ≤ 8 := by unfold burstWords; unfold burstMax at hmax; omega
    have hhold : StaTest.notTxf.holds u.cfg (readSta u).1 = true := by
      have hdepth := (Config.wf_depths hcfg).1
      rw [show (readSta u).1 = staValue u.cfg u.periph _ from rfl, (staTestsSayWhatTheFifosHold _ _ _ hcfg).2.1]
      exact decide_eq_true (by omega)
    simp only [txWords, hphase, waitPoll_of_holds _ hhold] at hact
    simp only [WordPacked, hphase] at hpk
    cases hd : u.block.wDir with
    | send =>
      rw [beginTxWord_of_send (by exact hd)] at hact
      refine ⟨_, burstAct_quiet hact rfl rfl rfl rfl rfl (fun _ => rfl) rfl
        (.words hw hn hx hr hfl ht (by simp) ?_ (hl.act hact)) (by simp [hw])
        (fun _ => timely_of (by simp) (by simp [hw])) fun _ => ?_⟩
      · exact (hpk.append 0).same (sameCall_withBlock (t := (readSta u).2) rfl rfl (fun _ => rfl) rfl) rfl
      · simp only [burstLeft, State.withBlock_block, readSta_block, hw, hphase, phaseSpent]
        simp; omega
    | receive =>
      rw [beginTxWord_of_receive (by exact hd)] at hact
      refine ⟨_, burstAct_quiet hact rfl rfl rfl rfl rfl (fun _ => rfl) rfl
        (.words hw hn hx hr hfl ht (by simp) ?_ (hl.act hact)) (by simp [hw])
        (fun _ => timely_of (by simp) (by simp [hw])) fun _ => ?_⟩
      · exact (hpk.dummy hd).same (sameCall_withBlock (t := (readSta u).2) rfl rfl (fun _ => rfl) rfl) rfl
      · simp only [burstLeft, State.withBlock_block, readSta_block, hw, hphase, phaseSpent]
        simp; omega
  | byte k => exact burstAct_packs hok hw (hph.1 k hw hphase) hphase hn hx hr hfl ht hpk hl
  | last => exact burstAct_txdWritten hcfg hok hw hphase hn hx hr hfl ht hpk hl
  | giveUp => exact absurd hphase hp

end

end Sys2Proof.Machine

namespace Sys2Proof.Machine

/-! ### The words of B7 -/

/-- The one call whose bytes go to `resp` receives one byte (R145). -/
theorem BlockOk.respCall {b : Block} (h : BlockOk b) (hn : b.wte ≠ .none) (hs : b.wSrc = .resp) :
    b.wDir = .receive ∧ b.wSize.toNat = 1 := by
  have hcall := h.callOk hn
  cases hc : b.cfl <;> simp only [Machine.callOk, hc, hs] at hcall <;> simp at hcall
  obtain ⟨hd, hsize⟩ := hcall
  rw [hsize]
  exact ⟨hd, rfl⟩

/-- A burst has at most eight words. -/
theorem BlockOk.wj_lt {b : Block} (h : BlockOk b) (hw : b.wte = .b7Rx) : b.wj.toNat < 8 := by
  obtain ⟨⟨-, hmax, -⟩, hj⟩ := h.burst (.inr hw)
  unfold burstMax at hmax
  rw [burstWords_eq] at hj
  omega

/-- Its burst is that byte (R111). -/
theorem BlockOk.respBurst {b : Block} (h : BlockOk b) (hw : b.wte = .b7Rx) (hs : b.wSrc = .resp) :
    b.blen.toNat = 1 ∧ b.wj.toNat = 0 := by
  obtain ⟨⟨hpos, -, hle⟩, hj⟩ := h.burst (.inr hw)
  have hone := (h.respCall (by simp [hw]) hs).2
  rw [burstWords_eq] at hj
  omega

/-- A call that receives stores to the buffer or to `resp` (R24). -/
theorem BlockOk.receiveCall {b : Block} (h : BlockOk b) (hn : b.wte ≠ .none) (hd : b.wDir = .receive) :
    b.wSrc = .buf ∨ b.wSrc = .resp := by
  have hcall := h.callOk hn
  cases hc : b.cfl <;> simp only [Machine.callOk, hc, hd] at hcall
  case recvTop => exact .inl hcall.2.1
  case c0Recv => exact .inr hcall.2.1
  case c53Pay => exact .inl hcall.2.1
  all_goals simp at hcall

theorem dstByte_of_buf {s : State} {i : Nat} (v : Byte) (hs : s.block.wSrc = .buf)
    (h : s.block.wBase.toNat + i < 2 ^ 32) :
    dstByte i v s = .next ((s.withMem (s.mem.write (s.block.wBase.toNat + i) v)).log
      (.memWrite (s.block.wBase.toNat + i) v)) := by
  unfold dstByte memWrite
  rw [hs, if_neg (Nat.not_le.mpr h)]

theorem dstByte_of_resp {s : State} {i : Nat} (v : Byte) (hs : s.block.wSrc = .resp) (h : i = 0) :
    dstByte i v s = .next (s.withBlock { s.block with resp := v }) := by
  unfold dstByte
  rw [hs, if_pos h]

/-- Byte k of a word of B7 is stored where the call wants it, and the word goes on. -/
theorem unpackByte_total {u : State} {k : Fin 4} (h : BlockOk u.block) (hw : u.block.wte = .b7Rx)
    (hd : u.block.wDir = .receive) :
    ∃ (t : State) (r : Byte), unpackByte k u
        = .next (t.withBlock (byteDone k (wordDone .next { u.block with resp := r }) { u.block with resp := r }))
      ∧ t.cfg = u.cfg ∧ t.periph = u.periph ∧ t.env = u.env
      ∧ (u.block.wSrc = .resp → r = if k.val = 0 then byteOf u.block.latch 0 else u.block.resp) := by
  have hn : u.block.wte ≠ .none := by simp [hw]
  obtain ⟨⟨-, -, hle⟩, -⟩ := h.burst (.inr hw)
  have hdone := fun t : State => nextByte_eq k (nextWord_goWte .next t)
  unfold unpackByte
  by_cases hx : burstPos u.block k < u.block.blen.toNat
  · simp only [hx, if_true]
    rcases h.receiveCall hn hd with hs | hs
    · have hin := h.bufferCall_inside hn hs (by omega)
      rw [dstByte_of_buf _ hs (by omega), andThen_next]
      exact ⟨_, u.block.resp, congrArg _ (hdone _), rfl, rfl, rfl, fun hr => by simp [hs] at hr⟩
    · have hone := (h.respCall hn hs).2
      have hzero : u.block.wOff.toNat + burstPos u.block k = 0 := by omega
      have hk : k.val = 0 := by unfold burstPos at hzero; omega
      rw [dstByte_of_resp _ hs hzero, andThen_next, hk]
      exact ⟨u, byteOf u.block.latch 0, congrArg _ (hdone _), rfl, rfl, rfl, fun _ => (if_pos rfl).symm⟩
  · refine ⟨u, u.block.resp, ?_, rfl, rfl, rfl, fun hs => ?_⟩
    · simp only [hx, if_false]
      exact congrArg _ (hdone u)
    · have hone := h.respBurst hw hs
      rw [if_neg]
      unfold burstPos at hx
      omega

section
variable {W I : List Byte} {base : State} {ws taken taken' : List Word} {u v : State}

/-- The words of a burst in B7 after an action that keeps the burst and its words together. -/
theorem RxStage.next (h : RxStage W I base ws taken u) (hact : act u = .next v) (hsame : SameCall u v)
    (hb : v.block.blen = u.block.blen) (hp : (v.untake taken').periph = (u.untake taken).periph)
    (hcount : taken'.length = rxTaken v.block) (hready : v.block.phase = .last → v.periph.rx ≠ [])
    (hlatch : ∀ k, v.block.phase = .byte k → ∃ l, taken' = l ++ [v.block.latch])
    (hresp : v.block.wSrc = .resp → ∀ k, v.block.phase = .byte k → 0 < k.val →
      v.block.resp = byteOf v.block.latch 0) : RxStage W I base ws taken' v := by
  have hgo : FrameGoes base ws u.block.blen.toNat (v.untake taken') :=
    h.frame.congr hsame.cfg hp (act_actOnly hact).wireOut (act_actOnly hact).wireIn
  have hwords : burstWords v.block = burstWords u.block := by rw [burstWords_eq, burstWords_eq, hb]
  exact ⟨hb ▸ hgo, h.cfg.trans hsame.cfg.symm, h.rxNone, h.linked, h.words.trans hwords.symm,
    hb ▸ h.sent.same hsame hb, hcount, hready, hlatch, hresp⟩

/-- The bytes of a burst all of whose RX words have been read. -/
theorem RxStage.exchanged (h : RxStage W I base ws taken u) (hact : act u = .next v) (hsame : SameCall u v)
    (hb : v.block.blen = u.block.blen) (hp : (v.untake taken').periph = (u.untake taken).periph)
    (hall : taken'.length = ws.length)
    (hresp : u.block.wSrc = .resp → u.block.blen.toNat = 1 ∧ ∃ w, taken' = [w] ∧ v.block.resp = byteOf w 0) :
    Settled v ∧ v.periph.rx = [] ∧ ∃ o d, Exchanged W I o d v := by
  have hgo : FrameGoes base ws u.block.blen.toNat (v.untake taken') :=
    h.frame.congr hsame.cfg hp (act_actOnly hact).wireOut (act_actOnly hact).wireIn
  have hwords : ws.length = (u.block.blen.toNat + 3) / 4 := h.words
  obtain ⟨hf, htx, hr, hout, hin, hlen⟩ := hgo.over h.rxNone hwords hall
  refine ⟨⟨hf, htx⟩, hr, (laneBytes ws).take u.block.blen.toNat, (laneBytes taken').take u.block.blen.toNat,
    ⟨?_, ?_⟩, ?_, hlen.trans (by rw [hb]), ?_, ?_⟩
  · exact hout.trans (by rw [h.linked.out])
  · exact hin.trans (by rw [h.linked.inn])
  · rw [List.length_take, length_laneBytes, hb]; omega
  · intro x y hxy
    have hx : x < u.block.blen.toNat := by
      by_contra hge
      rw [List.getElem?_take, if_neg hge] at hxy
      cases hxy
    rw [List.getElem?_take_of_lt hx] at hxy
    obtain ⟨w, hw, hs⟩ := h.sent x hx hx
    rw [getElem?_laneBytes hw] at hxy
    obtain rfl := Option.some.inj hxy
    exact hsame.wOff ▸ hs.same hsame
  · intro hs
    obtain ⟨hone, w, rfl, hr⟩ := hresp (hsame.wSrc ▸ hs)
    rw [hone, hr]; rfl

/-- The end of a word of B7: the wait for the next word, or the end of the burst. -/
theorem RxStage.wordDone {t : State} {r : Byte} (h : RxStage W I base ws taken u) (hok : BlockOk u.block)
    (hw : u.block.wte = .b7Rx)
    (hact : act u = .next (t.withBlock (Machine.wordDone .next { u.block with resp := r })))
    (hsame : SameCall u (t.withBlock (Machine.wordDone .next { u.block with resp := r })))
    (hp : (t.untake taken').periph = (u.untake taken).periph) (hcount : taken'.length = u.block.wj.toNat + 1)
    (hresp : u.block.wSrc = .resp → u.block.blen.toNat = 1 ∧ ∃ w, taken' = [w] ∧ r = byteOf w 0) :
    BurstAt W I (t.withBlock (Machine.wordDone .next { u.block with resp := r }))
      ∧ (Machine.wordDone .next { u.block with resp := r }).wte ≠ .none
      ∧ Timely 0 (t.withBlock (Machine.wordDone .next { u.block with resp := r }))
      ∧ burstLeft (t.withBlock (Machine.wordDone .next { u.block with resp := r })) < burstLeft u := by
  obtain ⟨⟨-, hmax, -⟩, hj⟩ := hok.burst (.inr hw)
  have hsucc := toNat_wj_succ hmax hj
  have hwords : burstWords u.block ≤ 8 := by unfold burstWords; unfold burstMax at hmax; omega
  have hframe : frameLeft t.periph = frameLeft u.periph := by
    have hf := congrArg Periph.frame hp
    simp only [untake_periph] at hf
    rw [frameLeft, frameLeft, hf]
  have hspent : rxSpent u.block.phase ≤ 5 := by
    cases u.block.phase with
    | byte k => have hk := k.isLt; simp only [rxSpent]; omega
    | _ => simp [rxSpent]
  have hleft : burstLeft u
      = 50 + frameLeft u.periph + (6 * (8 - u.block.wj.toNat) - rxSpent u.block.phase) := by
    simp [burstLeft, hw]
  have hp' : ∀ b, ((t.withBlock b).untake taken').periph = (u.untake taken).periph := fun _ => hp
  rw [hleft]
  rcases wordDone_cases .next { u.block with resp := r } with ⟨hmore, he⟩ | ⟨hall, he⟩ <;> rw [he] at hact hsame ⊢
  · have hstage : RxStage W I base ws taken' _ :=
      h.next hact hsame rfl (hp' _) (hcount.trans hsucc.symm) (by simp) (by simp) (by simp)
    refine ⟨.rx hw base ws taken' hstage, by simp [hw],
      ⟨by simp, by simp [hw], by simp [hw], fun _ _ f hf => ?_⟩, ?_⟩
    · rcases hstage.frame.rx h.rxNone with ⟨g, hg, -, -, hlen⟩ | ⟨hnone, -⟩
      · obtain rfl : g = f := Option.some.inj (hg.symm.trans hf)
        change 0 + 0 + 4 * (u.block.wj + 1).toNat ≤ g.i
        rw [hsucc]
        rw [hcount] at hlen
        omega
      · rw [hnone] at hf; cases hf
    · simp only [burstLeft, State.withBlock_block, State.withBlock_periph, hw, hsucc, hframe,
        show rxSpent .start = 0 from rfl]
      omega
  · have hlast : taken'.length = ws.length := by
      have hle : burstWords u.block ≤ (u.block.wj + 1).toNat := hall
      have hn := h.words
      omega
    obtain ⟨hs, hr, o, d, hx⟩ := h.exchanged hact hsame rfl (hp' _) hlast hresp
    refine ⟨.done rfl hs hr o d hx, by simp, timely_of (by simp) (by simp), ?_⟩
    simp only [burstLeft, State.withBlock_block]
    omega

/-- A poll of B7 reads whether the RX FIFO holds a word (R101). -/
theorem notRxe_holds (hcfg : u.cfg.wf = true) :
    StaTest.notRxe.holds u.cfg (readSta u).1 = decide (u.periph.rx ≠ []) := by
  rw [show (readSta u).1 = staValue u.cfg u.periph _ from rfl, (staTestsSayWhatTheFifosHold _ _ _ hcfg).2.2]

theorem act_rxPoll (hw : u.block.wte = .b7Rx) (hphase : u.block.phase = .start) :
    act u = waitPoll .notRxe (goPhase .last) u := by
  rw [act_eq_of_wte hw (by simp), wteAct, hw]
  simp only [rxWords, hphase]

theorem RxStage.count_start (h : RxStage W I base ws taken u) (hphase : u.block.phase = .start) :
    taken.length = u.block.wj.toNat := by rw [h.count, rxTaken, hphase]; rfl

/-- A poll of B7 that finds no word: the frame has not come to the end of it (R112). -/
theorem burstAct_rxPoll_of_empty (hcfg : u.cfg.wf = true) (hok : BlockOk u.block) (hw : u.block.wte = .b7Rx)
    (hphase : u.block.phase = .start) (h : RxStage W I base ws taken u) (hr : u.periph.rx = []) :
    ∃ v, BurstAct W I u v := by
  have hact := act_rxPoll hw hphase
  have hcount := h.count_start hphase
  obtain ⟨-, hj⟩ := hok.burst (.inr hw)
  rw [waitPoll_of_fails _ (by rw [notRxe_holds hcfg, hr]; rfl)] at hact
  obtain ⟨f, hf, hlt, hn, hlen⟩ : ∃ f, u.periph.frame = some f ∧ f.i < f.n ∧ f.n = u.block.blen.toNat
      ∧ taken.length + u.periph.rx.length = f.i / 4 := by
    refine (h.frame.rx h.rxNone).resolve_right fun hover => ?_
    have hall := hover.2
    rw [hr, hcount, h.words] at hall
    simp at hall
    omega
  have hsame : SameCall u (pollFailed u) :=
    sameCall_withBlock (t := (readSta u).2) rfl rfl (fun _ => rfl) rfl
  have hphase' : (pollFailed u).block.phase = .start ∨ (pollFailed u).block.phase = .giveUp := by
    cases hspent : pollsSpent u.cfg (u.block.polls + 1) with
    | false => exact .inl ((pollFailed_phase_of_left hspent).trans hphase)
    | true => exact .inr (pollFailed_phase_of_spent hspent)
  have htaken : taken.length = rxTaken (pollFailed u).block := by
    rw [rxTaken, hcount]
    rcases hphase' with he | he <;> (rw [he]; rfl)
  refine ⟨_, hact, rfl, rfl, rfl, hsame, .rx hw base ws taken (h.next hact hsame rfl rfl htaken ?_ ?_ ?_),
    fun hw' => ?_, fun ht => ⟨?_, .inr ⟨hsame.callLeft_eq ?_, f, hf⟩⟩⟩
  · intro hp; rcases hphase' with he | he <;> rw [he] at hp <;> cases hp
  · intro k hp; rcases hphase' with he | he <;> rw [he] at hp <;> cases hp
  · intro _ k hp; rcases hphase' with he | he <;> rw [he] at hp <;> cases hp
  · exact absurd (hw.symm.trans hw') (by simp)
  · have hpolls := ht.frame hw hphase f hf
    have hadd : (u.block.polls + 1).toNat = u.block.polls.toNat + 1 :=
      toNat_succ_of_lt (n := 4) (by rw [hr, List.length_nil] at hlen; omega) (by decide)
    have hleft : pollsSpent u.cfg (u.block.polls + 1) = false := pollsSpent_eq_false fun n hlim => by
      have hdepth := (Config.wf_depths hcfg).2
      have hn := Config.wf_poll_depth hcfg hlim
      rw [hadd]
      rw [hr, List.length_nil] at hlen
      omega
    refine ⟨fun _ => ?_, fun hs => ?_, fun hs => ?_, fun _ _ g hg => ?_⟩
    · rw [pollFailed_phase_of_left hleft, hphase]; simp
    · simp [pollFailed, hw] at hs
    · simp [pollFailed, hw] at hs
    · obtain rfl : f = g := Option.some.inj (hf.symm.trans hg)
      change (u.block.polls + 1).toNat + 0 + 4 * u.block.wj.toNat ≤ f.i
      rw [hadd]; omega
  · have hspent : rxSpent (pollFailed u).block.phase = rxSpent u.block.phase := by
      rcases hphase' with he | he
      · rw [he, hphase]
      · rw [he, hphase]; rfl
    have hwte : (pollFailed u).block.wte = .b7Rx := hw
    simp only [burstLeft, hw, hwte, hspent]
    rfl

/-- A poll of B7 that finds a word (R119). -/
theorem burstAct_rxPoll_of_word (hcfg : u.cfg.wf = true) (hok : BlockOk u.block) (hw : u.block.wte = .b7Rx)
    (hphase : u.block.phase = .start) (h : RxStage W I base ws taken u) (hr : u.periph.rx ≠ []) :
    ∃ v, BurstAct W I u v := by
  have hact := act_rxPoll hw hphase
  have hcount := h.count_start hphase
  rw [waitPoll_of_holds _ (by rw [notRxe_holds hcfg]; exact decide_eq_true hr)] at hact
  have hsame : SameCall u ((readSta u).2.withBlock { u.block with phase := .last }) :=
    sameCall_withBlock rfl rfl (fun _ => rfl) rfl
  refine ⟨_, burstAct_quiet hact rfl rfl rfl rfl rfl (fun _ => rfl) rfl (.rx hw base ws taken
    (h.next hact hsame rfl rfl hcount (fun _ => hr) (by simp) (by simp))) (by simp [hw])
    (fun _ => timely_of (by simp) (by simp [hw])) fun _ => ?_⟩
  have hlt := hok.wj_lt hw
  simp only [burstLeft, State.withBlock_block, State.withBlock_periph, readSta_block, readSta_periph, hw, hphase, rxSpent]
  omega

/-- A poll of B7 (R112). -/
theorem burstAct_rxPoll (hcfg : u.cfg.wf = true) (hok : BlockOk u.block) (hw : u.block.wte = .b7Rx)
    (hphase : u.block.phase = .start) (h : RxStage W I base ws taken u) : ∃ v, BurstAct W I u v := by
  by_cases hr : u.periph.rx = []
  · exact burstAct_rxPoll_of_empty hcfg hok hw hphase h hr
  · exact burstAct_rxPoll_of_word hcfg hok hw hphase h hr

end

end Sys2Proof.Machine

namespace Sys2Proof.Machine

/-- A read of RXD changes the RX FIFO and the trace only. -/
theorem readRxd_total {s : State} {w : Word} {rest : List Word} (h : s.periph.rx = w :: rest) :
    ∃ t, readRxd s = .next (w, t) ∧ t.block = s.block ∧ t.cfg = s.cfg ∧ t.env = s.env ∧ t.mem = s.mem
      ∧ t.periph = { s.periph with rx := rest } :=
  ⟨_, readRxd_of_cons h, rfl, rfl, rfl, rfl, rfl⟩

theorem takeRxWord_of_send {s t : State} {w : Word} (h : readRxd s = .next (w, t)) (hd : t.block.wDir = .send) :
    takeRxWord s = .next (t.withBlock (wordDone .next t.block)) := by
  unfold takeRxWord
  rw [h, andThen_next, hd, nextWord_goWte]

theorem takeRxWord_of_receive {s t : State} {w : Word} (h : readRxd s = .next (w, t))
    (hd : t.block.wDir = .receive) :
    takeRxWord s = .next (t.withBlock { t.block with latch := w, phase := .byte 0 }) := by
  unfold takeRxWord
  rw [h, andThen_next, hd]
  rfl

theorem sameCall_wordDone {u t : State} {after : Wte} {r : Byte} (hcfg : t.cfg = u.cfg) (henv : t.env = u.env)
    (hmem : u.block.wDir = .send → t.mem = u.mem) :
    SameCall u (t.withBlock (wordDone after { u.block with resp := r })) := by
  obtain ⟨p, x, he⟩ := wordDone_eq after { u.block with resp := r }
  rw [he]
  exact sameCall_withBlock hcfg (congrArg Env.race henv) hmem rfl

section
variable {W I : List Byte} {base : State} {ws taken : List Word} {u v : State}

/-- B7 reads a word that the frame has brought (R119). -/
theorem burstAct_rxTake (hok : BlockOk u.block) (hw : u.block.wte = .b7Rx) (hphase : u.block.phase = .last)
    (h : RxStage W I base ws taken u) : ∃ v, BurstAct W I u v := by
  have hact : act u = takeRxWord u := by
    rw [act_eq_of_wte hw (by simp), wteAct, hw]
    simp only [rxWords, hphase]
  obtain ⟨w, rest, hrx⟩ := List.exists_cons_of_ne_nil (h.ready hphase)
  obtain ⟨t, ht, hblock, hcfg, henv, hmem, hperiph⟩ := readRxd_total hrx
  have hcount : (taken ++ [w]).length = u.block.wj.toNat + 1 := by
    rw [List.length_append, h.count, rxTaken, hphase]; rfl
  have hp : ∀ b, ((t.withBlock b).untake (taken ++ [w])).periph = (u.untake taken).periph := by
    intro b; simp [hperiph, hrx]
  cases hd : u.block.wDir with
  | send =>
    rw [takeRxWord_of_send ht (by rw [hblock, hd]), hblock] at hact
    have hsame : SameCall u (t.withBlock (wordDone .next { u.block with resp := u.block.resp })) :=
      sameCall_wordDone hcfg henv fun _ => hmem
    have hresp : u.block.wSrc ≠ .resp := fun hs => by rw [(hok.respCall (by simp [hw]) hs).1] at hd; cases hd
    obtain ⟨hplace, hn, htime, hless⟩ :=
      h.wordDone (r := u.block.resp) hok hw hact hsame (hp u.block) hcount fun hs => absurd hs hresp
    exact ⟨_, hact, by rw [State.withBlock_env, henv], by rw [State.withBlock_env, henv],
      by rw [State.withBlock_periph, hperiph], hsame, hplace, hn, fun _ => ⟨htime, .inl (hsame.callLeft_lt hless)⟩⟩
  | receive =>
    rw [takeRxWord_of_receive ht (by rw [hblock, hd]), hblock] at hact
    have hsame : SameCall u (t.withBlock { u.block with latch := w, phase := .byte 0 }) :=
      sameCall_withBlock hcfg (congrArg Env.race henv) (fun _ => hmem) rfl
    have hstage := h.next hact hsame rfl (hp _) hcount (by simp) (fun k _ => ⟨taken, rfl⟩)
      (fun _ k hk h0 => by cases hk; cases h0)
    refine ⟨_, burstAct_quiet hact hcfg (congrArg Env.race henv) (congrArg Env.sched henv) (congrArg Env.answers henv)
      (by rw [hperiph]) (fun _ => hmem) rfl (.rx hw base ws _ hstage) (by simp [hw])
      (fun _ => timely_of (by simp) (by simp [hw])) fun _ => ?_⟩
    have hlt := hok.wj_lt hw
    simp only [burstLeft, State.withBlock_block, State.withBlock_periph, hw, hphase, hperiph, frameLeft, rxSpent]
    simp; omega

/-- B7 stores a byte of the word it has read (R119). -/
theorem burstAct_rxByte {k : Fin 4} (hok : BlockOk u.block) (hph : PhaseOk u.block) (hw : u.block.wte = .b7Rx)
    (hphase : u.block.phase = .byte k) (h : RxStage W I base ws taken u) : ∃ v, BurstAct W I u v := by
  have hd := hph.2 k hw hphase
  have hact : act u = unpackByte k u := by
    rw [act_eq_of_wte hw (by simp), wteAct, hw]
    simp only [rxWords, hphase]
  obtain ⟨t, r, hun, hcfg, hperiph, henv, hr⟩ := unpackByte_total (k := k) hok hw hd
  have hmem : u.block.wDir = .send → t.mem = u.mem := fun hs => by rw [hd] at hs; cases hs
  have hcount : taken.length = u.block.wj.toNat + 1 := by rw [h.count, rxTaken, hphase]
  have hp : ∀ b, ((t.withBlock b).untake taken).periph = (u.untake taken).periph := by
    intro b; simp [hperiph]
  have hfirst : u.block.wSrc = .resp → r = byteOf u.block.latch 0 := by
    intro hs
    rw [hr hs]
    split
    · rfl
    · exact h.resp hs k hphase (by omega)
  rw [hun] at hact
  rcases byteDone_cases k (wordDone .next { u.block with resp := r }) { u.block with resp := r } with
    ⟨hk, he⟩ | ⟨hk, he⟩ <;> rw [he] at hact
  · have hsame : SameCall u (t.withBlock { u.block with resp := r, phase := .byte ⟨k.val + 1, hk⟩ }) :=
      sameCall_withBlock hcfg (congrArg Env.race henv) hmem rfl
    have hstage := h.next hact hsame rfl (hp _) hcount (by simp) (fun _ _ => h.latch k hphase) fun hs _ _ _ => hfirst hs
    refine ⟨_, burstAct_quiet hact hcfg (congrArg Env.race henv) (congrArg Env.sched henv) (congrArg Env.answers henv)
      (by rw [hperiph]) hmem rfl (.rx hw base ws taken hstage) (by simp [hw])
      (fun _ => timely_of (by simp) (by simp [hw])) fun _ => ?_⟩
    have hlt := hok.wj_lt hw
    simp only [burstLeft, State.withBlock_block, State.withBlock_periph, hw, hphase, hperiph, rxSpent]
    omega
  · have hsame : SameCall u (t.withBlock (wordDone .next { u.block with resp := r })) :=
      sameCall_wordDone hcfg henv hmem
    obtain ⟨hplace, hn, htime, hless⟩ := h.wordDone hok hw hact hsame (hp u.block) hcount fun hs => by
      obtain ⟨hlen, hj⟩ := hok.respBurst hw hs
      obtain ⟨l, hl⟩ := h.latch k hphase
      have hnil : l = [] := by
        rw [hl, hj, List.length_append] at hcount
        exact List.length_eq_zero_iff.mp (by simpa using hcount)
      exact ⟨hlen, u.block.latch, by rw [hl, hnil]; rfl, hfirst hs⟩
    exact ⟨_, hact, congrArg Env.sched henv, congrArg Env.answers henv, congrArg Periph.disturbed hperiph, hsame,
      hplace, hn, fun _ => ⟨htime, .inl (hsame.callLeft_lt hless)⟩⟩

end

end Sys2Proof.Machine

namespace Sys2Proof.Machine

/-! ## A call -/

/-- The bytes `cs` and `ds` that the completed bursts of the call have exchanged (R111, R121). -/
structure CallSent (u : State) (cs ds : List Byte) : Prop where
  lenOut : cs.length = u.block.wOff.toNat
  lenIn : ds.length = u.block.wOff.toNat
  sent : ∀ x v, cs[x]? = some v → SentByte u x v
  resp : u.block.wSrc = .resp → u.block.wOff.toNat ≠ 0 → ds = [u.block.resp]

/-- A call runs that began with W and I on the link. -/
def CallAt (W I : List Byte) (u : State) : Prop := ∃ cs ds, BurstAt (W ++ cs) (I ++ ds) u ∧ CallSent u cs ds

/-- What one action of a call does: it goes on, it returns with all its bytes exchanged, or the raise ends the
request. -/
inductive CallOutcome (W I : List Byte) (u v : State) : Prop
  | goesOn (h : CallAt W I v) (hn : v.block.wte ≠ .none) (hc : v.block.cfl = u.block.cfl)
      (ht : Timely 1 u → Timely 0 v ∧ Shortens u v)
  | returns (cs ds : List Byte) (hw : u.block.wte = .top) (h : BurstAt (W ++ cs) (I ++ ds) v) (hs : CallSent u cs ds)
      (hall : u.block.wOff = u.block.wSize)
      (hv : v = u.withBlock { u.block with wte := .none, cfl := afterCall u.block.cfl })
  | givesUp (hg : u.block.phase = .giveUp) (hv : v = endRequest .deviceNotResponding u)

/-- An action of a call answers, and draws neither the pace nor an answer. -/
structure CallAct (W I : List Byte) (u v : State) : Prop where
  act : act u = .next v
  sched : v.env.sched = u.env.sched
  answers : v.env.answers = u.env.answers
  disturbed : v.periph.disturbed = u.periph.disturbed
  outcome : CallOutcome W I u v

/-- A call that has bytes left has not had them all. -/
theorem BlockOk.wOff_lt {b : Block} (h : BlockOk b) (hn : b.wte ≠ .none) (hne : b.wte = .top → b.wOff ≠ b.wSize) :
    b.wOff.toNat < b.wSize.toNat := by
  by_cases ht : b.wte = .top
  · have hle := h.burstOk
    simp only [Machine.burstOk, ht] at hle
    exact lt_of_le_of_ne hle fun e => hne ht (BitVec.eq_of_toNat_eq e)
  · obtain ⟨⟨hpos, -, hle⟩, -⟩ := (burstOk_iff hn ht).mp h.burstOk
    omega

section
variable {W I : List Byte} {cs ds : List Byte} {u v : State}

/-- An action inside the burst leaves the completed bursts as they are. -/
theorem CallSent.same (h : CallSent u cs ds) (k : SameCall u v) (hok : BlockOk u.block) (hn : u.block.wte ≠ .none)
    (hlt : u.block.wOff.toNat < u.block.wSize.toNat) : CallSent v cs ds := by
  refine ⟨h.lenOut.trans (by rw [k.wOff]), h.lenIn.trans (by rw [k.wOff]), fun x y hxy => (h.sent x y hxy).same k, ?_⟩
  intro hs h0
  rw [k.wSrc] at hs
  rw [k.wOff] at h0
  have hone := (hok.respCall hn hs).2
  omega

theorem BurstAct.callAct (h : BurstAct (W ++ cs) (I ++ ds) u v) (hsent : CallSent u cs ds) (hok : BlockOk u.block)
    (hn : u.block.wte ≠ .none) (hlt : u.block.wOff.toNat < u.block.wSize.toNat) : CallAct W I u v :=
  ⟨h.act, h.sched, h.answers, h.disturbed,
    .goesOn ⟨cs, ds, h.place, hsent.same h.same hok hn hlt⟩ h.inCall h.same.cfl h.timely⟩

/-- W_TOP (R111): the call returns, or its next burst begins. -/
theorem callAct_top (hok : BlockOk u.block) (hw : u.block.wte = .top) (hs : Settled u)
    (hl : Linked (W ++ cs) (I ++ ds) u) (hsent : CallSent u cs ds) : ∃ v, CallAct W I u v := by
  have hn : u.block.wte ≠ .none := by simp [hw]
  have hact : act u = .next (wTop u) := by rw [act_eq_of_wte hw (by simp), wteAct, hw]
  by_cases hall : u.block.wOff = u.block.wSize
  · rw [wTop, if_pos hall] at hact
    exact ⟨_, hact, rfl, rfl, rfl, .returns cs ds hw (.before (.inl rfl) hs (hl.act hact)) hsent hall rfl⟩
  · rw [wTop, if_neg hall] at hact
    have hburst : BurstAct (W ++ cs) (I ++ ds) u _ :=
      burstAct_quiet hact rfl rfl rfl rfl rfl (fun _ => rfl) rfl (.before (.inr (.inr rfl)) hs (hl.act hact)) (by simp)
        (fun h => ⟨by simp, fun _ => h.stale (.inr (.inl hw)), by simp, by simp⟩)
        fun _ => by simp [burstLeft, hw]
    exact ⟨_, hburst.callAct hsent hok hn (hok.wOff_lt hn fun _ => hall)⟩

/-- W_NEXT (R111): the bytes of the burst are completed. -/
theorem callAct_next (hok : BlockOk u.block) (hw : u.block.wte = .next) (hs : Settled u) (hr : u.periph.rx = [])
    {o e : List Byte} (hx : Exchanged (W ++ cs) (I ++ ds) o e u) (hsent : CallSent u cs ds) : ∃ v, CallAct W I u v := by
  have hn : u.block.wte ≠ .none := by simp [hw]
  have hact : act u = .next (wNext u) := by rw [act_eq_of_wte hw (by simp), wteAct, hw]
  obtain ⟨⟨hpos, hmax, hle⟩, -⟩ := (burstOk_iff hn (by simp [hw])).mp hok.burstOk
  have hoff : (u.block.wOff + u.block.blen.setWidth 32).toNat = u.block.wOff.toNat + u.block.blen.toNat := by
    have hlt := u.block.wSize.isLt
    unfold burstMax at hmax
    rw [BitVec.toNat_add, BitVec.toNat_setWidth]; omega
  have hl : Linked (W ++ (cs ++ o)) (I ++ (ds ++ e)) (wNext u) := by
    rw [← List.append_assoc, ← List.append_assoc]
    exact hx.linked.act hact
  refine ⟨_, hact, rfl, rfl, rfl, .goesOn ⟨cs ++ o, ds ++ e, .before (.inr (.inl rfl)) hs hl, ?_, ?_, ?_, ?_⟩
    (by simp [wNext, goWte]) rfl fun _ => ⟨?_, .inl ?_⟩⟩
  · rw [List.length_append, hsent.lenOut, hx.lenOut]; exact hoff.symm
  · rw [List.length_append, hsent.lenIn, hx.lenIn]; exact hoff.symm
  · intro x y hxy
    by_cases hxc : x < cs.length
    · rw [List.getElem?_append_left hxc] at hxy
      exact hsent.sent x y hxy
    · have hge := Nat.le_of_not_lt hxc
      rw [List.getElem?_append_right hge] at hxy
      have hs := hx.sent _ y hxy
      rw [hsent.lenOut, Nat.add_sub_cancel' (hsent.lenOut ▸ hge)] at hs
      exact hs
  · intro hsrc _
    have hone := (hok.respCall hn hsrc).2
    have hnil : ds = [] := List.length_eq_zero_iff.mp (hsent.lenIn.trans (by omega))
    rw [hnil, hx.resp hsrc]; rfl
  · refine ⟨by simp [wNext, goWte], fun _ n _ => ?_, by simp [wNext, goWte], by simp [wNext, goWte]⟩
    change u.periph.rx.length ≤ n
    rw [hr]; exact Nat.zero_le _
  · have hsize : (wNext u).block.wSize.toNat - (wNext u).block.wOff.toNat
        = u.block.wSize.toNat - (u.block.wOff.toNat + u.block.blen.toNat) := by rw [← hoff]; rfl
    have hleft : burstLeft (wNext u) = 199 := by simp [burstLeft, wNext, goWte, hr]
    rw [callLeft, callLeft, hsize, hleft]
    simp only [burstLeft, hw]
    omega

/-- The raise of a wait that has used up its budget (R112). -/
theorem callAct_givesUp (hw : u.block.wte = .b2Drain ∨ u.block.wte = .b7Rx) (hg : u.block.phase = .giveUp) :
    ∃ v, CallAct W I u v := by
  have hact : act u = .next (endRequest .deviceNotResponding u) := by
    rcases hw with hw | hw
    · rw [act_eq_of_wte hw (by simp), wteAct, hw]
      simp only [drain, hg]; rfl
    · rw [act_eq_of_wte hw (by simp), wteAct, hw]
      simp only [rxWords, hg]; rfl
  exact ⟨_, hact, rfl, rfl, rfl, .givesUp hg rfl⟩

/-- One action of a call that runs, whatever the pace of the peripheral. -/
theorem CallAt.act (h : CallAt W I u) (hcfg : u.cfg.wf = true) (hok : BlockOk u.block) (hph : PhaseOk u.block)
    (hn : u.block.wte ≠ .none) (hd : u.block.wSize.toNat ≠ 0 → u.periph.disturbed = false) :
    ∃ v, CallAct W I u v := by
  obtain ⟨cs, ds, h, hsent⟩ := h
  have hburst : u.block.wte ≠ .top → (∃ v, BurstAct (W ++ cs) (I ++ ds) u v) → ∃ v, CallAct W I u v := by
    rintro ht ⟨v, hv⟩
    exact ⟨v, hv.callAct hsent hok hn (hok.wOff_lt hn fun h => absurd h ht)⟩
  cases h with
  | before hw hs hl =>
    rcases hw with hw | hw | hw
    · exact absurd hw hn
    · exact callAct_top hok hw hs hl hsent
    · exact hburst (by simp [hw]) (burstAct_trigOff hcfg hw hs hl)
  | drain hw hs hx hp hl =>
    by_cases hg : u.block.phase = .giveUp
    · exact callAct_givesUp (.inl hw) hg
    · exact hburst (by simp [hw]) (burstAct_drain hcfg hw hs hx hp hg hl)
  | txe hw hs hx hr hp hl => exact hburst (by simp [hw]) (burstAct_txe hcfg hw hs hx hr hp hl)
  | fl hw hs hx hr hlatch hl => exact hburst (by simp [hw]) (burstAct_fl hcfg hok hw hs hx hr hlatch hl)
  | words hw hf hx hr hfl ht hp hpk hl =>
    exact hburst (by simp [hw]) (burstAct_words hcfg hok hph hw hf hx hr hfl ht hp hpk hl)
  | trigOn hw hf hx hr hfl hlatch ht hpk hl =>
    have hlt := hok.wOff_lt hn fun h => by rw [hw] at h; cases h
    exact hburst (by simp [hw]) (burstAct_trigOn hcfg hok (hd (by omega)) hw hf hx hr hfl hlatch ht hpk hl)
  | rx hw base ws taken h =>
    cases hp : u.block.phase with
    | start => exact hburst (by simp [hw]) (burstAct_rxPoll hcfg hok hw hp h)
    | byte k => exact hburst (by simp [hw]) (burstAct_rxByte hok hph hw hp h)
    | last => exact hburst (by simp [hw]) (burstAct_rxTake hok hw hp h)
    | giveUp => exact callAct_givesUp (.inr hw) hp
  | done hw hs hr o e hx => exact callAct_next hok hw hs hr hx hsent

/-- The peripheral's share leaves a call where it stands, its frame further. -/
theorem CallAt.breathe (h : CallAt W I u) (hcfg : u.cfg.wf = true) (hok : BlockOk u.block) :
    ∃ t, Machine.breathe u = .next t ∧ CallAt W I t ∧ Share u t := by
  obtain ⟨cs, ds, h, hsent⟩ := h
  obtain ⟨t, ht, hat, hshare⟩ := h.breathe hcfg hok
  refine ⟨t, ht, ⟨cs, ds, hat, ?_⟩, hshare⟩
  have hk := hshare.only.sameCall
  have hblock := hshare.only.block
  exact ⟨by rw [hblock]; exact hsent.lenOut, by rw [hblock]; exact hsent.lenIn,
    fun x y hxy => (hsent.sent x y hxy).same hk, by rw [hblock]; exact hsent.resp⟩

/-- A healthy peripheral keeps a call in time (R112, R211). -/
theorem Share.timely (h : Share u v) (hh : u.healthy) (ht : Timely 0 u) (hf : u.block.wte ≠ .b7Rx → v = u) :
    Timely 1 v := by
  by_cases hw : u.block.wte = .b7Rx
  · have hblock := h.only.block
    refine ⟨by rw [hblock]; exact ht.phase, by rw [hblock]; simp [hw], by rw [hblock]; simp [hw], ?_⟩
    rw [hblock]
    intro _ hs g hg
    obtain ⟨f, hf, hlt, -, -⟩ := h.progress hh g hg
    have hle := ht.frame hw hs f hf
    omega
  · rw [hf hw]
    exact ⟨ht.phase, ht.stale, ht.drain, fun h => absurd h hw⟩

end

end Sys2Proof.Machine

namespace Sys2Proof.Machine

/-! ## A request, call by call -/

/-- An action that moves only the block's registers. -/
structure OwnMove (s t : State) : Prop where
  periph : t.periph = s.periph
  env : t.env = s.env
  mem : t.mem = s.mem

theorem ownMove_withBlock (s : State) (b : Block) : OwnMove s (s.withBlock b) := ⟨rfl, rfl, rfl⟩

theorem ownMove_endRequest (st : Status) (s : State) : OwnMove s (endRequest st s) := ⟨rfl, rfl, rfl⟩

theorem checkBuffer_ownMove (c : Cfl) (s : State) : OwnMove s (checkBuffer c s) := by
  unfold checkBuffer
  split
  · exact ownMove_endRequest _ s
  · exact ownMove_withBlock s _

theorem checkC53_ownMove (s : State) : OwnMove s (checkC53 s) := by
  unfold checkC53
  split
  · exact ownMove_endRequest _ s
  · exact ownMove_withBlock s _

theorem checkRequest_ownMove (s : State) : OwnMove s (checkRequest s) := by
  unfold checkRequest
  split
  · exact checkBuffer_ownMove _ s
  · exact checkBuffer_ownMove _ s
  · exact ownMove_withBlock s _
  · exact checkC53_ownMove s
  · exact checkC53_ownMove s
  all_goals exact ownMove_endRequest _ s

/-- Outside its calls a request moves only the block's registers (R21). -/
theorem cflAct_ownMove (s : State) : OwnMove s (cflAct s) := by
  unfold cflAct
  split
  case h_1 => exact ⟨rfl, rfl, rfl⟩
  case h_2 => exact checkRequest_ownMove s
  case h_7 => exact ownMove_endRequest _ s
  case h_8 =>
    unfold c53Top
    split
    · exact ownMove_withBlock s _
    · exact ownMove_withBlock s _
  case h_13 => exact ownMove_endRequest _ s
  all_goals exact ownMove_withBlock s _

/-- Where a request stands with W and I on the link: between its calls the peripheral is idle; in a call W and I are the
link's bytes before the call. -/
inductive RequestAt (W I : List Byte) (u : State) : Prop
  | between (hw : u.block.wte = .none) (hs : Settled u) (hl : Linked W I u)
  | calling (hw : u.block.wte ≠ .none) (h : CallAt W I u)

/-- What one action of a request does. -/
inductive RequestOutcome (W I : List Byte) (u v : State) : Prop
  | own (hw : u.block.wte = .none) (hs : Settled u) (hl : Linked W I u) (hv : v = cflAct u)
  | call (hw : u.block.wte ≠ .none) (h : CallOutcome W I u v)

/-- An action of a request answers, and draws neither the pace nor an answer. -/
structure RequestAct (W I : List Byte) (u v : State) : Prop where
  act : act u = .next v
  sched : v.env.sched = u.env.sched
  answers : v.env.answers = u.env.answers
  disturbed : v.periph.disturbed = u.periph.disturbed
  outcome : RequestOutcome W I u v

section
variable {W I : List Byte} {u v : State}

theorem RequestAt.idle (h : RequestAt W I u) (hw : u.block.wte = .none) : Settled u ∧ Linked W I u := by
  cases h with
  | between _ hs hl => exact ⟨hs, hl⟩
  | calling hn => exact absurd hw hn

/-- With the peripheral idle a request stands between its calls, or where the next one begins. -/
theorem requestAt_of_idle (hv : v.block.wte = .none ∨ v.block.wte = .top ∧ v.block.wOff = 0) (hs : Settled v)
    (hl : Linked W I v) : RequestAt W I v := by
  rcases hv with hw | ⟨hw, hoff⟩
  · exact .between hw hs hl
  · have hzero : v.block.wOff.toNat = 0 := by rw [hoff]; rfl
    refine .calling (by simp [hw]) ⟨[], [], .before (.inr (.inl hw)) hs ?_, ?_⟩
    · rw [List.append_nil, List.append_nil]; exact hl
    · exact ⟨hzero.symm, hzero.symm, by simp, fun _ h => absurd hzero h⟩

/-- Setting the block's registers leaves the peripheral idle. -/
theorem RequestAt.withBlock {b : Block} (h : RequestAt W I u) (hw : u.block.wte = .none)
    (hb : b.wte = .none ∨ b.wte = .top ∧ b.wOff = 0) : RequestAt W I (u.withBlock b) := by
  obtain ⟨hs, hl⟩ := h.idle hw
  exact requestAt_of_idle hb hs ⟨hl.out, hl.inn⟩

/-- A call that returns leaves the request between its calls, with the bytes of the call on the link. -/
theorem requestAt_of_returns {b : Block} {cs ds : List Byte} (hb : b.wte = .none)
    (h : BurstAt (W ++ cs) (I ++ ds) (u.withBlock b)) : RequestAt (W ++ cs) (I ++ ds) (u.withBlock b) := by
  cases h with
  | before _ hs hl => exact .between hb hs hl
  | drain hw | txe hw | fl hw | words hw | trigOn hw | rx hw | done hw =>
    rw [State.withBlock_block, hb] at hw; cases hw

theorem RequestAt.act (h : RequestAt W I u) (hcfg : u.cfg.wf = true) (hok : BlockOk u.block) (hph : PhaseOk u.block)
    (hd : u.block.wte ≠ .none → u.block.wSize.toNat ≠ 0 → u.periph.disturbed = false) :
    ∃ v, RequestAct W I u v := by
  cases h with
  | between hw hs hl =>
    obtain ⟨hp, he, -⟩ := cflAct_ownMove u
    exact ⟨_, act_eq_cflAct hw, by rw [he], by rw [he], by rw [hp], .own hw hs hl rfl⟩
  | calling hw h =>
    obtain ⟨v, hact, hsched, hans, hdis, hout⟩ := h.act hcfg hok hph hw (hd hw)
    exact ⟨v, hact, hsched, hans, hdis, .call hw hout⟩

/-- Only B7 waits for a frame. -/
theorem BurstAt.frame_none (h : BurstAt W I u) (hw : u.block.wte ≠ .b7Rx) : u.periph.frame = none := by
  cases h with
  | before _ hs => exact hs.1
  | drain _ hs => exact hs.1
  | txe _ hs => exact hs.1
  | fl _ hs => exact hs.1
  | words _ hn => exact hn
  | trigOn _ hn => exact hn
  | rx hw' => exact absurd hw' hw
  | done _ hs => exact hs.1

theorem RequestAt.frame_none (h : RequestAt W I u) (hw : u.block.wte ≠ .b7Rx) : u.periph.frame = none := by
  cases h with
  | between _ hs => exact hs.1
  | calling _ h =>
    obtain ⟨cs, ds, h, -⟩ := h
    exact h.frame_none hw

/-- The peripheral's share leaves a request where it stands, and does nothing outside B7. -/
theorem RequestAt.breathe (h : RequestAt W I u) (hcfg : u.cfg.wf = true) (hok : BlockOk u.block) :
    ∃ t, Machine.breathe u = .next t ∧ RequestAt W I t ∧ Share u t ∧ (u.block.wte ≠ .b7Rx → t = u) := by
  have hnone : u.block.wte ≠ .b7Rx → ∃ t, Machine.breathe u = .next t ∧ RequestAt W I t ∧ Share u t
      ∧ (u.block.wte ≠ .b7Rx → t = u) := fun hw =>
    ⟨u, breathe_of_no_frame (h.frame_none hw), h, share_of_no_frame (h.frame_none hw), fun _ => rfl⟩
  by_cases hw : u.block.wte = .b7Rx
  · cases h with
    | between hn => exact hnone (by simp [hn])
    | calling hn h =>
      obtain ⟨t, ht, hat, hshare⟩ := h.breathe hcfg hok
      exact ⟨t, ht, .calling (by rw [hshare.only.block]; exact hn) hat, hshare, fun hne => absurd hw hne⟩
  · exact hnone hw

end

/-- An action of a request that does not receive stores to no byte (R62). -/
theorem RunsRequest.mem_eq {i : Instr} {u v : State} (h : RunsRequest i u.block) (hb : u.busy = true)
    (hv : Machine.act u = .next v) (hi : ¬ ReceivesBuffer i.op) : v.mem = u.mem := by
  obtain ⟨es, hm, -, hacc⟩ := act_acts hb hv
  obtain ⟨n, hstep⟩ := hm.bufferStep h.ok h.phase ((State.busy_iff u).mp hb)
  cases hacc with
  | quiet _ hmem => exact hmem
  | ctlWritten _ _ hmem => exact hmem
  | txdWritten _ _ _ hmem => exact hmem
  | rxdRead _ _ _ _ hmem => exact hmem
  | stored a x =>
    cases hstep.access with
    | none _ hw => cases hw
    | read _ hr => cases hr
    | write hop => exact absurd (h.op ▸ hop) hi

theorem op_ne_of_usesBuffer {i : Instr} (h : i.usesBuffer = true) : i.op ≠ 0b010#3 := by
  cases i with
  | cmd0 => cases h
  | _ => simp [Instr.op]

/-- A call that has bytes to move is of a request that moves bytes (R111, R150). -/
theorem RunsRequest.movesBytes {i : Instr} {b : Block} (h : RunsRequest i b) (hi : i.wellFormed = true)
    (hn : b.wte ≠ .none) (hsize : b.wSize.toNat ≠ 0) : Machine.movesBytes i = true := by
  refine movesBytes_of hi fun hu hzero => ?_
  have hz : b.size.toNat = 0 := by rw [h.size, hzero]; rfl
  have hcall := h.ok.callOk hn
  have hreq := h.ok.requestOk
  have hchunk := h.ok.chunkOk
  have hop : b.op ≠ 0b010#3 := h.op ▸ op_ne_of_usesBuffer hu
  cases hc : b.cfl with
  | sendTop => simp only [callOk, hc] at hcall; exact hsize (by rw [hcall.2.2.2, hz])
  | recvTop => simp only [callOk, hc] at hcall; exact hsize (by rw [hcall.2.2.2, hz])
  | c0Send => simp only [requestOk, hc] at hreq; exact hop hreq
  | c0Recv => simp only [requestOk, hc] at hreq; exact hop hreq
  | c53Hdr | c53Pay | c53Trl => simp only [chunkOk, hc] at hchunk; omega
  | _ => simp only [callOk, hc] at hcall

/-! ### The run of a request -/

/-- What every tick of the request i keeps, from the state s it was made in. -/
structure LinkRun (i : Instr) (s u : State) : Prop where
  cfg : u.cfg = s.cfg
  noReset : u.env.resets = []
  runs : RunsRequest i u.block
  answered : Answered s u
  undisturbed : movesBytes i = true → u.periph.disturbed = false
  mem : ¬ ReceivesBuffer i.op → u.mem = s.mem

section
variable {i : Instr} {s u t v : State} {W I : List Byte}

theorem linkRun_accept (i : Instr) (h : s.Ready) : LinkRun i s (accept i.op i.buf i.size s) := by
  refine ⟨by simp, by simpa using h.noReset, runsRequest_accept i s, .of_eq (by simp [State.wireIn]) (by simp), ?_,
    by simp⟩
  intro hm
  simp [hm, periphSettled, h.frameNone, h.txNone]

theorem requestAt_accept (i : Instr) (h : s.Ready) :
    RequestAt s.wireOut s.wireIn (accept i.op i.buf i.size s) := by
  have hframe : (accept i.op i.buf i.size s).periph.frame = none := by
    rcases accept_frame i.op i.buf i.size s with ⟨-, he⟩ | ⟨f, w, hf, -⟩
    · exact he
    · rw [h.frameNone] at hf; cases hf
  exact .between (by simp) ⟨hframe, by simpa using h.txNone⟩ ⟨by simp [State.wireOut], by simp [State.wireIn]⟩

theorem LinkRun.share (h : LinkRun i s u) (k : Share u t) : LinkRun i s t := by
  have k' := k.only
  exact ⟨k'.cfg.trans h.cfg, k'.resets.trans h.noReset, k'.block ▸ h.runs, h.answered.trans k.answered,
    fun hm => k'.disturbed.trans (h.undisturbed hm), fun hi => k'.mem.trans (h.mem hi)⟩

theorem LinkRun.act (h : LinkRun i s u) (hb : u.busy = true) (k : RequestAct W I u v) : LinkRun i s v := by
  have k' := act_actOnly k.act
  exact ⟨k'.cfg.trans h.cfg, k'.resets.trans h.noReset, h.runs.act hb k.act,
    h.answered.trans (.of_eq k'.wireIn k.answers), fun hm => k.disturbed.trans (h.undisturbed hm),
    fun hi => (h.runs.mem_eq hb k.act hi).trans (h.mem hi)⟩

/-- One tick of a request that the block runs: the peripheral's share leads to t, and the action from there to v. -/
structure RequestTick (i : Instr) (s : State) (W I : List Byte) (u t v : State) : Prop where
  share : Share u t
  unmoved : u.block.wte ≠ .b7Rx → t = u
  before : LinkRun i s t
  place : RequestAt W I t
  tick : tick u = .next v
  act : RequestAct W I t v
  after : LinkRun i s v

theorem RequestTick.block (h : RequestTick i s W I u t v) : t.block = u.block := h.share.only.block

theorem LinkRun.tick (h : LinkRun i s u) (hcfg : s.cfg.wf = true) (hi : i.wellFormed = true)
    (hat : RequestAt W I u) (hb : u.busy = true) : ∃ t v, RequestTick i s W I u t v := by
  obtain ⟨t, ht, hplace, hshare, hsame⟩ := hat.breathe (h.cfg ▸ hcfg) h.runs.ok
  have hrun := h.share hshare
  have hbt : t.busy = true := by rw [State.busy, hshare.only.block]; exact hb
  obtain ⟨v, hv⟩ := hplace.act (hrun.cfg ▸ hcfg) hrun.runs.ok hrun.runs.phase
    fun hn hsize => hrun.undisturbed (hrun.runs.movesBytes hi hn hsize)
  exact ⟨t, v, hshare, hsame, hrun, hplace, by rw [tick_of_no_reset h.noReset, ht, andThen_next, hv.act], hv,
    hrun.act hbt hv⟩

/-! ### A healthy peripheral -/

/-- The waits of the request hold as soon as they can: the peripheral is healthy, and no wait is late. -/
def Timed (u : State) : Prop := u.healthy ∧ Timely 0 u

/-- Between its calls a request has no wait, and the RX words are as they were. -/
theorem Timed.withBlock {b : Block} (h : Timed u) (hw : u.block.wte = .none)
    (hb : b.wte = .none ∨ b.wte = .top ∧ b.phase = .start) : Timed (u.withBlock b) := by
  refine ⟨h.1, ?_, fun _ => h.2.stale (.inl hw), ?_, ?_⟩
  · rcases hb with hb | ⟨-, hb⟩
    · exact fun hn => absurd hb hn
    · simp [hb]
  · rcases hb with hb | ⟨hb, -⟩ <;> simp [hb]
  · rcases hb with hb | ⟨hb, -⟩ <;> simp [hb]

/-- In B7 the bound counts the bytes left of the frame. -/
theorem callLeft_add (hb : t.block = u.block) (hw : u.block.wte = .b7Rx) :
    callLeft t + frameLeft u.periph = callLeft u + frameLeft t.periph := by
  simp only [callLeft, burstLeft, hb, hw]
  omega

/-- A healthy peripheral's share takes the frame further (R47). -/
theorem Share.frameLeft (h : Share u t) (hh : u.healthy) :
    Machine.frameLeft t.periph ≤ Machine.frameLeft u.periph
      ∧ ∀ g, t.periph.frame = some g → Machine.frameLeft t.periph < Machine.frameLeft u.periph := by
  cases ht : t.periph.frame with
  | none => exact ⟨by simp [Machine.frameLeft, ht], by simp⟩
  | some g =>
    obtain ⟨f, hu, hlt, hend, hn⟩ := h.progress hh g ht
    have hless : Machine.frameLeft t.periph < Machine.frameLeft u.periph := by
      simp only [Machine.frameLeft, ht, hu]; omega
    exact ⟨hless.le, fun _ _ => hless⟩

/-- A healthy peripheral keeps the waits of a request in time (R112, R211), and its share shortens the call. -/
theorem RequestTick.timely (h : RequestTick i s W I u t v) (hh : u.healthy) (ht : Timely 0 u) :
    Timely 1 t ∧ callLeft t ≤ callLeft u ∧ ∀ g, t.periph.frame = some g → callLeft t < callLeft u := by
  obtain ⟨hle, hlt⟩ := h.share.frameLeft hh
  refine ⟨h.share.timely hh ht h.unmoved, ?_⟩
  by_cases hw : u.block.wte = .b7Rx
  · have hsum := callLeft_add h.block hw
    exact ⟨by omega, fun g hg => by have hless := hlt g hg; omega⟩
  · rw [h.unmoved hw] at hlt ⊢
    exact ⟨le_rfl, fun g hg => absurd (hlt g hg) (lt_irrefl _)⟩

/-- A tick that goes on with a call shortens it. -/
theorem RequestTick.timed_goesOn (h : RequestTick i s W I u t v)
    (hgo : Timely 1 t → Timely 0 v ∧ Shortens t v) (ht : Timed u) : Timed v ∧ callLeft v < callLeft u := by
  obtain ⟨hh, ht⟩ := ht
  obtain ⟨ht', hle, hlt⟩ := h.timely hh ht
  obtain ⟨hv, hless⟩ := hgo ht'
  have hhealthy : v.healthy := by rw [State.healthy, h.act.sched]; exact h.share.healthy hh
  refine ⟨⟨hhealthy, hv⟩, ?_⟩
  rcases hless with hless | ⟨heq, f, hf⟩
  · omega
  · have := hlt f hf
    omega

/-- A tick that raises DEVICE_NOT_RESPONDING ends a wait that was late. -/
theorem RequestTick.not_timed (h : RequestTick i s W I u t v) (hn : t.block.wte ≠ .none)
    (hg : t.block.phase = .giveUp) : ¬ Timed u := fun ht =>
  (h.timely ht.1 ht.2).1.phase hn hg


end

end Sys2Proof.Machine

namespace Sys2Proof.Machine

/-! ## CMD0 -/

/-- Where a CMD0 stands (R145), and the bytes it has exchanged before the call it is in. -/
inductive Cmd0At (s u : State) : Prop
  | sends (hc : u.block.cfl = .check ∨ u.block.cfl = .c0Send) (h : RequestAt s.wireOut s.wireIn u)
  | receives (ds : List Byte) (hd : ds.length = 8) (hc : u.block.cfl = .c0Recv)
      (h : RequestAt (s.wireOut ++ cmd0Frame) (s.wireIn ++ ds) u)
  | evals (ds : List Byte) (hd : ds.length = 8) (hc : u.block.cfl = .c0Eval)
      (h : RequestAt (s.wireOut ++ cmd0Frame ++ [0xFF]) (s.wireIn ++ ds ++ [u.block.resp]) u)

/-- A CMD0 whose waits all succeeded has ended (R146). -/
structure Cmd0End (s t : State) : Prop where
  busy : t.busy = false
  status : t.block.status = if t.block.resp = 0x01 then .ok else .protocolMismatch
  out : t.wireOut = s.wireOut ++ cmd0Frame ++ [0xFF]
  inn : ∃ ds : List Byte, ds.length = 8 ∧ t.wireIn = s.wireIn ++ ds ++ [t.block.resp]

/-- A bound on the ticks left of a CMD0. -/
def cmd0Left (u : State) : Nat :=
  match u.block.cfl with
  | .check => 2 * u.periph.rx.length + 5000
  | .c0Send => if u.block.wte = .none then 2 * u.periph.rx.length + 4000 else 2000 + callLeft u
  | .c0Recv => if u.block.wte = .none then 2 * u.periph.rx.length + 1000 else 500 + callLeft u
  | _ => 1

/-- What one tick of a CMD0 leads to: it goes on, it has ended with all its waits succeeded, or a wait was late. -/
inductive Cmd0Step (s u v : State) : Prop
  | goesOn (hat : Cmd0At s v) (ht : Timed u → Timed v ∧ cmd0Left v < cmd0Left u)
  | ends (h : Cmd0End s v)
  | late (hb : v.busy = false) (hs : v.block.status = .deviceNotResponding) (ht : ¬ Timed u)

theorem Cmd0At.busy {s u : State} (h : Cmd0At s u) : u.busy = true := by
  rw [State.busy_iff]
  cases h with
  | sends hc => rcases hc with hc | hc <;> simp [hc]
  | receives _ _ hc => simp [hc]
  | evals _ _ hc => simp [hc]

/-- The bytes of a call that has returned are as many as its size. -/
theorem CallSent.lengths {u : State} {cs ds : List Byte} (h : CallSent u cs ds) (hall : u.block.wOff = u.block.wSize) :
    cs.length = u.block.wSize.toNat ∧ ds.length = u.block.wSize.toNat :=
  ⟨h.lenOut.trans (by rw [hall]), h.lenIn.trans (by rw [hall])⟩

/-- A list all of whose entries are those of a list as long is that list. -/
theorem eq_of_getElem?_le {α : Type} {l m : List α} (hlen : l.length = m.length)
    (h : ∀ (x : Nat) (v : α), l[x]? = some v → m[x]? = some v) : l = m := by
  refine List.ext_getElem hlen fun x hl hm => ?_
  have hx := h x _ (List.getElem?_eq_getElem hl)
  rw [List.getElem?_eq_getElem hm] at hx
  exact (Option.some.inj hx).symm

section
variable {s u t v : State} {buf size : Word} {W I : List Byte}

/-- A tick that goes on with a call of CMD0 shortens the request. -/
theorem cmd0Left_of_callLeft (hc : u.block.cfl = .c0Send ∨ u.block.cfl = .c0Recv) (hu : u.block.wte ≠ .none)
    (hcfl : v.block.cfl = u.block.cfl) (hv : v.block.wte ≠ .none) (h : callLeft v < callLeft u) :
    cmd0Left v < cmd0Left u := by
  unfold cmd0Left
  rw [hcfl]
  rcases hc with hc | hc <;> simp [hc, hu, hv, h]

theorem checkRequest_cmd0 (h : u.block.op = 0b010#3) : checkRequest u = goCfl .c0Send u := by
  unfold checkRequest
  rw [h]; rfl

/-- CHECK and C0_EVAL, and the calls being made (R145). -/
theorem cmd0Step_own (h : Cmd0At s u) (hop : u.block.op = 0b010#3) (hw : u.block.wte = .none) :
    Cmd0Step s u (cflAct u) := by
  unfold cflAct
  cases h with
  | sends hc h =>
    rcases hc with hc | hc
    · rw [hc]
      simp only [checkRequest_cmd0 hop]
      exact .goesOn (.sends (.inr rfl) (h.withBlock hw (.inl hw))) fun ht =>
        ⟨ht.withBlock hw (.inl hw), by simp [cmd0Left, hc, hw, goCfl]⟩
    · rw [hc]
      exact .goesOn (.sends (.inr hc) (h.withBlock hw (.inr ⟨rfl, rfl⟩))) fun ht =>
        ⟨ht.withBlock hw (.inr ⟨rfl, rfl⟩),
          by simp [cmd0Left, hc, hw, callWte, callLeft, burstLeft, cmd0Len]; omega⟩
  | receives ds hd hc h =>
    rw [hc]
    exact .goesOn (.receives ds hd hc (h.withBlock hw (.inr ⟨rfl, rfl⟩))) fun ht =>
      ⟨ht.withBlock hw (.inr ⟨rfl, rfl⟩),
        by simp [cmd0Left, hc, hw, callWte, callLeft, burstLeft, cmd0RespLen]; omega⟩
  | evals ds hd hc h =>
    obtain ⟨-, hl⟩ := h.idle hw
    have honly := endRequest_actOnly (if u.block.resp = 0x01#8 then .ok else .protocolMismatch) u
    rw [hc]
    exact .ends ⟨rfl, rfl, honly.wireOut.trans hl.out, ds, hd, honly.wireIn.trans hl.inn⟩

/-- CHECK makes no call. -/
theorem cfl_of_callOk {b : Block} {c : Cfl} (h : callOk b) (hc : b.cfl = .check ∨ b.cfl = c) : b.cfl = c := by
  rcases hc with hc | hc
  · simp [callOk, hc] at h
  · exact hc

/-- A tick at which a call of CMD0 returns shortens the request, and leaves no wait. -/
theorem RequestTick.cmd0_returns (h : RequestTick (.cmd0 buf size) s W I u t v) (hw : t.block.wte = .top)
    (hv : v = t.withBlock { t.block with wte := .none, cfl := afterCall t.block.cfl })
    (hc : u.block.cfl = .c0Send ∨ u.block.cfl = .c0Recv) (ht : Timed u) : Timed v ∧ cmd0Left v < cmd0Left u := by
  have hwu : u.block.wte = .top := h.block ▸ hw
  obtain rfl := h.unmoved (by simp [hwu])
  subst hv
  refine ⟨⟨ht.1, by simp, fun _ => ht.2.stale (.inr (.inl hw)), by simp, by simp⟩, ?_⟩
  rcases hc with hc | hc
  · simp [cmd0Left, hc, hw, afterCall, callLeft, burstLeft]; omega
  · simp [cmd0Left, hc, hw, afterCall]; omega

/-- What a tick of a CMD0 leads to, when it is said where its call and the return of its call lead. -/
theorem RequestTick.cmd0Step (h : RequestTick (.cmd0 buf size) s W I u t v) (hat : Cmd0At s u)
    (hgo : v.block.cfl = u.block.cfl → v.block.wte ≠ .none → RequestAt W I v → Cmd0At s v)
    (hret : ∀ cs ds, CallSent t cs ds → t.block.wOff = t.block.wSize → callOk t.block →
      RequestAt (W ++ cs) (I ++ ds) v → v = t.withBlock { t.block with wte := .none, cfl := afterCall t.block.cfl } →
        Cmd0At s v) : Cmd0Step s u v := by
  have hblock := h.block
  rcases h.act.outcome with ⟨hw, -, -, hv⟩ | ⟨hn, hcall⟩
  · obtain rfl := h.unmoved (by simp [← hblock, hw])
    rw [hv]
    exact cmd0Step_own hat h.before.runs.op hw
  have hokcall := h.before.runs.ok.callOk hn
  have hc : u.block.cfl = .c0Send ∨ u.block.cfl = .c0Recv := by
    have hcall := hblock ▸ hokcall
    cases hat with
    | sends hc => exact .inl (cfl_of_callOk hcall hc)
    | receives _ _ hc => exact .inr hc
    | evals _ _ hc => simp [callOk, hc] at hcall
  cases hcall with
  | goesOn hcallv hnv hcfl ht =>
    have hcfl' := hcfl.trans (congrArg Block.cfl hblock)
    refine .goesOn (hgo hcfl' hnv (.calling hnv hcallv)) fun htu => ?_
    obtain ⟨hv, hless⟩ := h.timed_goesOn ht htu
    exact ⟨hv, cmd0Left_of_callLeft hc (hblock ▸ hn) hcfl' hnv hless⟩
  | returns cs ds hw hburst hsent hall hv =>
    refine .goesOn (hret cs ds hsent hall hokcall ?_ hv) (h.cmd0_returns hw hv hc)
    subst hv
    exact requestAt_of_returns rfl hburst
  | givesUp hg hv =>
    subst hv
    exact .late rfl rfl (h.not_timed hn hg)

/-- One tick of a CMD0. -/
theorem Cmd0At.step (hat : Cmd0At s u) (hrun : LinkRun (.cmd0 buf size) s u) (hcfg : s.cfg.wf = true) :
    ∃ v, tick u = .next v ∧ LinkRun (.cmd0 buf size) s v ∧ Cmd0Step s u v := by
  have hb := hat.busy
  cases hat with
  | sends hc h =>
    obtain ⟨t, v, htick⟩ := hrun.tick hcfg rfl h hb
    refine ⟨v, htick.tick, htick.after, htick.cmd0Step (.sends hc h) (fun hcv _ hv => .sends (hcv ▸ hc) hv) ?_⟩
    intro cs ds hsent hall hcall hv hvt
    have hc' : t.block.cfl = .c0Send := by
      rw [htick.block] at hcall ⊢
      exact cfl_of_callOk hcall hc
    obtain ⟨hd, hsrc, hsize⟩ : t.block.wDir = .send ∧ t.block.wSrc = .cmd0f
        ∧ t.block.wSize = BitVec.ofNat 32 cmd0Len := by simpa only [callOk, hc'] using hcall
    obtain ⟨hcs, hds⟩ := hsent.lengths hall
    rw [hsize] at hcs hds
    obtain rfl : cs = cmd0Frame := eq_of_getElem?_le hcs fun x b hx => by
      simpa only [SentByte, hd, hsrc] using hsent.sent x b hx
    exact .receives ds hds (by rw [hvt]; simp [hc', afterCall]) hv
  | receives ds8 hd8 hc h =>
    obtain ⟨t, v, htick⟩ := hrun.tick hcfg rfl h hb
    refine ⟨v, htick.tick, htick.after, htick.cmd0Step (.receives ds8 hd8 hc h)
      (fun hcv _ hv => .receives ds8 hd8 (hcv ▸ hc) hv) ?_⟩
    intro cs ds hsent hall hcall hv hvt
    have hc' : t.block.cfl = .c0Recv := by rw [htick.block]; exact hc
    obtain ⟨hd, hsrc, hsize⟩ : t.block.wDir = .receive ∧ t.block.wSrc = .resp
        ∧ t.block.wSize = BitVec.ofNat 32 cmd0RespLen := by simpa only [callOk, hc'] using hcall
    obtain ⟨hcs, -⟩ := hsent.lengths hall
    rw [hsize] at hcs
    obtain ⟨b, rfl⟩ := List.length_eq_one_iff.mp hcs
    obtain rfl : b = 0xFF := by simpa only [SentByte, hd] using hsent.sent 0 b rfl
    obtain rfl := hsent.resp hsrc (by rw [hall, hsize]; decide)
    refine .evals ds8 hd8 (by rw [hvt]; simp [hc', afterCall]) ?_
    rw [show v.block.resp = t.block.resp by rw [hvt]; rfl]
    exact hv
  | evals ds hd hc h =>
    obtain ⟨t, v, htick⟩ := hrun.tick hcfg rfl h hb
    have hcall : ¬ callOk u.block := by simp [callOk, hc]
    have hnone : t.block.wte = .none := by
      by_contra hn
      exact hcall (htick.block ▸ htick.before.runs.ok.callOk hn)
    refine ⟨v, htick.tick, htick.after, ?_⟩
    rcases htick.act.outcome with ⟨hw, -, -, hv⟩ | ⟨hn, -⟩
    · obtain rfl := htick.unmoved (by simp [← htick.block, hw])
      rw [hv]
      exact cmd0Step_own (.evals ds hd hc h) htick.before.runs.op hw
    · exact absurd hnone hn

end

/-- CMD0 begins at CHECK. -/
theorem cmd0At_accept {s : State} (h : s.Ready) (buf size : Word) :
    Cmd0At s (accept (Instr.cmd0 buf size).op buf size s) :=
  .sends (.inl (by simp)) (requestAt_accept (.cmd0 buf size) h)

/-- What every tick of a CMD0 keeps: it runs, or it has ended, with all its waits succeeded or with a late one. -/
def Cmd0Reaches (s u : State) : Prop :=
  Cmd0At s u ∨ Cmd0End s u ∨ u.busy = false ∧ u.block.status = .deviceNotResponding

theorem Cmd0Reaches.tick {s u v : State} {buf size : Word} (hcfg : s.cfg.wf = true)
    (hrun : LinkRun (.cmd0 buf size) s u) (h : Cmd0Reaches s u) (hb : u.busy = true) (hv : tick u = .next v) :
    LinkRun (.cmd0 buf size) s v ∧ Cmd0Reaches s v := by
  rcases h with h | h | ⟨h, -⟩
  · obtain ⟨w, hw, hrunw, hstep⟩ := h.step hrun hcfg
    obtain rfl : v = w := Host.Outcome.next.inj (hv.symm.trans hw)
    refine ⟨hrunw, ?_⟩
    cases hstep with
    | goesOn hat => exact .inl hat
    | ends h => exact .inr (.inl h)
    | late hb hs => exact .inr (.inr ⟨hb, hs⟩)
  · rw [h.busy] at hb; cases hb
  · rw [h] at hb; cases hb

/-- What a CMD0 has put on the link: its frame and one byte 0xFF (R103). -/
theorem Cmd0End.wireOut {s t : State} (h : Cmd0End s t) :
    t.wireOut = s.wireOut ++ [0xFF, 0x40, 0x00, 0x00, 0x00, 0x00, 0x95, 0xFF, 0xFF] := by
  rw [h.out, List.append_assoc]; rfl

theorem LinkRun.cmd0_mem {s t : State} {buf size : Word} (h : LinkRun (.cmd0 buf size) s t) : t.mem = s.mem :=
  h.mem (by simp [ReceivesBuffer, Instr.op])

/-- Settles O22: the run leads to the end of a CMD0 whose waits all succeeded, or to a wait that was late. -/
theorem cmd0EvaluatesTheNinthByte : Obligations.Cmd0EvaluatesTheNinthByte := by
  intro s t buf size hready hexec hend hstatus
  rw [exec_of_idle _ ((State.busy_false_iff s).mpr hready.cflIdle)] at hexec
  obtain ⟨hrun, hat | hcmd0 | ⟨-, hlate⟩⟩ := runTicks_keeps
    (fun u => LinkRun (.cmd0 buf size) s u ∧ Cmd0Reaches s u)
    (fun u v ⟨hrun, hu⟩ hb hv => hu.tick hready.cfgWf hrun hb hv) _ _ t
    ⟨linkRun_accept _ hready, .inl (cmd0At_accept hready buf size)⟩ hexec
  · rw [hat.busy] at hend; cases hend
  · exact ⟨hcmd0.wireOut, hcmd0.inn, hcmd0.status, hrun.cmd0_mem⟩
  · exact absurd hlate hstatus

/-- A timed CMD0 ends with its waits succeeded when the ticks left are spent. -/
theorem Cmd0At.ends {s : State} {buf size : Word} (hcfg : s.cfg.wf = true) :
    ∀ (k : Nat) (u : State), LinkRun (.cmd0 buf size) s u → Cmd0At s u → Timed u → cmd0Left u < k →
      ∃ t, runTicks k u = .next t ∧ LinkRun (.cmd0 buf size) s t ∧ Cmd0End s t := by
  intro k
  induction k with
  | zero => intro u _ _ _ hk; omega
  | succ k ih =>
    intro u hrun hat ht hk
    obtain ⟨v, hv, hrunv, hstep⟩ := hat.step hrun hcfg
    rw [runTicks_busy k hat.busy, hv, andThen_next]
    cases hstep with
    | goesOn hatv hgo =>
      obtain ⟨htv, hless⟩ := hgo ht
      exact ih v hrunv hatv htv (by omega)
    | ends h => exact ⟨v, runTicks_idle k h.busy, hrunv, h⟩
    | late _ _ hlate => exact absurd ht hlate

/-- The last byte received is the one the link partner answers there (R46). -/
theorem Answered.last {s t : State} {ds ins rest : List Byte} {r b : Byte} (h : Answered s t)
    (hin : t.wireIn = s.wireIn ++ ds ++ [r]) (hans : s.env.answers.items = ins ++ b :: rest)
    (hlen : ins.length = ds.length) : r = b := by
  obtain ⟨d, hd, -, hval⟩ := h
  rw [hd, List.append_assoc, List.append_cancel_left_eq] at hin
  have hb := hval ds.length b (by simp [hin]) (by rw [hans, ← hlen]; simp)
  simpa [hin] using hb

/-- Settles O27: under a healthy peripheral no wait is late, so the run ends as O22 says. -/
theorem cmd0Completes : Obligations.Cmd0Completes := by
  intro s buf size hready hstale hrx hhealthy
  have htimed : Timed (accept (Instr.cmd0 buf size).op buf size s) := by
    refine ⟨by rw [State.healthy, accept_sched]; exact hhealthy, by simp, fun _ => ?_, by simp, by simp⟩
    rw [State.staleFits, accept_cfg, accept_rx]; exact hstale
  have hfuel : cmd0Left (accept (Instr.cmd0 buf size).op buf size s) < tickFuel := by
    simp only [cmd0Left, accept_block, accept_rx, tickFuel]
    omega
  obtain ⟨t, ht, hrun, hend⟩ := Cmd0At.ends hready.cfgWf tickFuel _ (linkRun_accept (.cmd0 buf size) hready)
    (cmd0At_accept hready buf size) htimed hfuel
  refine ⟨t, by rw [exec_of_idle _ ((State.busy_false_iff s).mpr hready.cflIdle)]; exact ht, hend.busy, hend.status,
    hend.wireOut, hend.inn, ?_, hrun.cmd0_mem⟩
  intro ins rest b hans hins
  obtain ⟨ds, hds, hin⟩ := hend.inn
  exact hrun.answered.last hin hans (hins.trans hds.symm)

end Sys2Proof.Machine

namespace Sys2Proof.Machine

/-! ## The wire length of a request -/

/-- Link bytes of a CMD53 request's chunks before the current one (R103, R151). -/
def chunksDone (b : Block) : Nat := b.cur.toNat + 18 * ((b.cur.toNat + 510) / 511)

/-- Link bytes of the calls that the request has completed (R103, R125, R128, R145, R151). -/
def wireDone (b : Block) : Nat :=
  match b.cfl with
  | .c0Recv => 8
  | .c0Eval => 9
  | .c53Top => chunksDone b
  | .c53Hdr => chunksDone b
  | .c53Pay => chunksDone b + 14
  | .c53Trl => chunksDone b + 14 + b.chunk.toNat
  | .c53Next => chunksDone b + 18 + b.chunk.toNat
  | .finish => wireLength (decodeReq b.op b.buf b.size)
  | _ => 0

/-- All chunks but the last are whole (R150). -/
def ChunkPlan (b : Block) : Prop :=
  match b.cfl with
  | .c53Top => b.rem.toNat = 0 ∨ b.cur.toNat % 511 = 0
  | .c53Hdr | .c53Pay | .c53Trl | .c53Next => b.cur.toNat % 511 = 0 ∧ b.chunk.toNat = min b.rem.toNat 511
  | _ => True

/-- Chunks that are whole, and one more of at most 511 bytes. -/
theorem chunksDone_add {c n : Nat} (hc : c % 511 = 0) (hn : 1 ≤ n) (hmax : n ≤ 511) :
    c + n + 18 * ((c + n + 510) / 511) = c + 18 * ((c + 510) / 511) + 18 + n := by
  omega

theorem wireLength_cmd53 {op : BitVec 3} (h : op = 0b011#3 ∨ op = 0b100#3) (buf size : Word) :
    wireLength (decodeReq op buf size) = size.toNat + 18 * ((size.toNat + 510) / 511) := by
  rcases h with rfl | rfl <;> rfl

/-- A call that returns has put its bytes on the link. -/
theorem wireDone_afterCall {b : Block} (h : BlockOk b) (hn : b.wte ≠ .none) (hp : ChunkPlan b) :
    ChunkPlan { b with wte := .none, cfl := afterCall b.cfl }
      ∧ wireDone { b with wte := .none, cfl := afterCall b.cfl } = wireDone b + b.wSize.toNat := by
  have hcall := h.callOk hn
  have hreq := h.requestOk
  cases hc : b.cfl with
  | sendTop =>
    simp only [callOk, requestOk, hc] at hcall hreq
    simp [ChunkPlan, wireDone, afterCall, hc, hreq.1, hcall.2.2.2, decodeReq, wireLength]
  | recvTop =>
    simp only [callOk, requestOk, hc] at hcall hreq
    simp [ChunkPlan, wireDone, afterCall, hc, hreq.1, hcall.2.2.2, decodeReq, wireLength]
  | c0Send =>
    simp only [callOk, hc] at hcall
    simp [ChunkPlan, wireDone, afterCall, hc, hcall.2.2, cmd0Len]
  | c0Recv =>
    simp only [callOk, hc] at hcall
    simp [ChunkPlan, wireDone, afterCall, hc, hcall.2.2, cmd0RespLen]
  | c53Hdr =>
    simp only [callOk, ChunkPlan, hc] at hcall hp
    simpa [ChunkPlan, wireDone, chunksDone, afterCall, hc, hcall.2.2, hdrLen] using hp
  | c53Pay =>
    simp only [callOk, ChunkPlan, hc] at hcall hp
    have hsize : b.wSize.toNat = b.chunk.toNat := by rw [hcall.2.2.2, toNat_chunk]
    simpa [ChunkPlan, wireDone, chunksDone, afterCall, hc, hsize] using hp
  | c53Trl =>
    simp only [callOk, ChunkPlan, hc] at hcall hp
    simp [ChunkPlan, wireDone, chunksDone, afterCall, hc, hcall.2.2, trlLen, hp]
    omega
  | _ => simp only [callOk, hc] at hcall

/-- The moves between the calls put nothing on the link, and an OK end comes when the whole length is there. -/
theorem CflMove.wireDone {b b' : Block} {es : List Event} (hm : CflMove b es b') (h : BlockOk b) (hp : ChunkPlan b) :
    b'.cfl ≠ .idle ∧ ChunkPlan b' ∧ Machine.wireDone b' = Machine.wireDone b
    ∨ b'.cfl = .idle ∧ (b'.status = .ok → Machine.wireDone b = wireLength (decodeReq b.op b.buf b.size)) := by
  have hreq := h.requestOk
  have hchunk := h.chunkOk
  cases hm with
  | ends st he =>
    refine .inr ⟨rfl, fun hst => ?_⟩
    rcases he with ⟨-, rfl⟩ | ⟨hc, -⟩ | ⟨hc, -⟩
    · cases hst
    · simp only [Machine.requestOk, hc] at hreq
      simp [Machine.wireDone, hc, hreq, decodeReq, wireLength]
    · simp [Machine.wireDone, hc]
  | bufferChecked c hc hb hop =>
    rcases hop with ⟨-, rfl⟩ | ⟨-, rfl⟩ <;> simp [ChunkPlan, Machine.wireDone, hc]
  | cmd0Checked hc => simp [ChunkPlan, Machine.wireDone, hc]
  | cmd53Checked hc => simp [ChunkPlan, Machine.wireDone, chunksDone, hc]
  | calls d w base n hcall =>
    refine .inl ⟨fun hi => ?_, hp, rfl⟩
    have hi' : b.cfl = .idle := hi
    simp [Machine.callOk, hi'] at hcall
  | chunkBegins hc hrem =>
    simp only [ChunkPlan, hc] at hp
    have hrem' : b.rem.toNat ≠ 0 := fun h0 => hrem (BitVec.eq_of_toNat_eq h0)
    refine .inl ⟨by simp, ⟨hp.resolve_left hrem', toNat_chunkLen b⟩, by simp [Machine.wireDone, chunksDone, hc]⟩
  | noChunkLeft hc hrem =>
    simp only [Machine.requestOk, Machine.chunkOk, hc] at hreq hchunk
    refine .inl ⟨by simp, trivial, ?_⟩
    have hcur : b.cur.toNat = b.size.toNat := by rw [← hchunk, hrem]; rfl
    simp [Machine.wireDone, chunksDone, hc, wireLength_cmd53 hreq.1, hcur]
  | chunkEnds hc =>
    simp only [Machine.chunkOk, ChunkPlan, hc] at hchunk hp
    obtain ⟨hsum, hpos, hmax, hle⟩ := hchunk
    have hcur : (b.cur + b.chunk.setWidth 32).toNat = b.cur.toNat + b.chunk.toNat := by
      have hlt := b.size.isLt
      rw [BitVec.toNat_add, toNat_chunk]; omega
    have hrem : (b.rem - b.chunk.setWidth 32).toNat = b.rem.toNat - b.chunk.toNat := by
      rw [BitVec.toNat_sub_of_le (by rw [BitVec.le_def, toNat_chunk]; exact hle), toNat_chunk]
    refine .inl ⟨by simp, ?_, ?_⟩
    · simp only [ChunkPlan, hcur, hrem]; omega
    · simp only [Machine.wireDone, chunksDone, hc, hcur]
      exact chunksDone_add hp.1 hpos hmax

/-! ### The length so far -/

/-- The link's bytes before the call in progress are those of the request's completed calls. -/
def LengthAt (s u : State) : Prop :=
  u.block.cfl ≠ .idle ∧ ChunkPlan u.block
    ∧ ∃ W I, RequestAt W I u ∧ W.length = s.wireOut.length + wireDone u.block

section
variable {i : Instr} {s u t v : State} {W I : List Byte}

theorem CflMove.wte {b b' : Block} {es : List Event} (hm : CflMove b es b') (hn : b.wte = .none) :
    b'.wte = .none ∨ b'.wte = .top ∧ b'.wOff = 0 := by
  cases hm with
  | calls => exact .inr ⟨rfl, rfl⟩
  | ends => exact .inl rfl
  | _ => exact .inl hn

/-- An action of a call that goes on keeps what its request has done. -/
theorem wireDone_of_goesOn {es : List Event} (ha : Machine.act t = .next v) (hm : WteMove t.block es v.block)
    (hc : v.block.cfl = t.block.cfl) :
    ChunkPlan v.block = ChunkPlan t.block ∧ wireDone v.block = wireDone t.block := by
  have hk := hm.keeps
  have honly := act_actOnly ha
  unfold ChunkPlan wireDone chunksDone
  rw [hc, hk.cur, hk.rem, hk.chunk, honly.op, honly.buf, honly.size]
  exact ⟨rfl, rfl⟩

theorem callOk_afterCall {b : Block} (h : callOk b) : b.cfl ≠ .idle ∧ afterCall b.cfl ≠ .idle := by
  cases hc : b.cfl with
  | idle => simp [callOk, hc] at h
  | _ => simp [afterCall]

/-- One tick keeps the length, and an OK end comes when it is the whole wire length. -/
theorem RequestTick.length (h : RequestTick i s W I u t v) (hb : u.busy = true) (hp : ChunkPlan u.block)
    (hlen : W.length = s.wireOut.length + wireDone u.block) :
    LengthAt s v
      ∨ v.busy = false ∧ (v.block.status = .ok → v.wireOut.length = s.wireOut.length + wireLength i) := by
  have hbt : t.busy = true := by rw [State.busy, h.block]; exact hb
  rw [← h.block] at hp hlen
  have hrun := h.before.runs
  obtain ⟨es, hm, -, -⟩ := act_acts hbt h.act.act
  rcases h.act.outcome with ⟨hw, hs, hl, hv⟩ | ⟨hn, hcall⟩
  · obtain ⟨-, hm⟩ := hm.resolve_right fun hm => hm.1 hw
    have hlv := hl.act h.act.act
    have hsv : Settled v := by rw [hv, Settled, (cflAct_ownMove t).periph]; exact hs
    rcases hm.wireDone hrun.ok hp with ⟨hgo, hpv, hdone⟩ | ⟨hend, hok⟩
    · exact .inl ⟨hgo, hpv, W, I, requestAt_of_idle (hm.wte hw) hsv hlv, hlen.trans (by rw [hdone])⟩
    · refine .inr ⟨(State.busy_false_iff v).mpr hend, fun hst => ?_⟩
      rw [hlv.out, hlen, hok hst, hrun.op, hrun.buf, hrun.size, decodeReq_fields]
  · obtain ⟨-, hm⟩ := hm.resolve_left fun hm => hn hm.1
    obtain ⟨hgo, hafter⟩ := callOk_afterCall (hrun.ok.callOk hn)
    cases hcall with
    | goesOn hcallv hnv hcfl =>
      obtain ⟨hpv, hdone⟩ := wireDone_of_goesOn h.act.act hm hcfl
      exact .inl ⟨hcfl ▸ hgo, hpv ▸ hp, W, I, .calling hnv hcallv, hlen.trans (by rw [hdone])⟩
    | returns cs ds _ hburst hsent hall hv =>
      obtain ⟨hpv, hdone⟩ := wireDone_afterCall hrun.ok hn hp
      subst hv
      refine .inl ⟨hafter, hpv, _, _, requestAt_of_returns rfl hburst, ?_⟩
      rw [List.length_append, hlen, (hsent.lengths hall).1, State.withBlock_block, hdone, Nat.add_assoc]
    | givesUp _ hv => exact .inr ⟨by rw [hv]; rfl, fun hst => by rw [hv] at hst; cases hst⟩

end

/-- A well-formed request that ends OK has its wire length on the link (R103). -/
theorem exec_wireLength {i : Instr} {s t : State} (hi : i.wellFormed = true) (hready : s.Ready)
    (h : exec i s = .next t) (hend : t.busy = false) (hst : t.block.status = .ok) :
    t.wireOut.length = s.wireOut.length + wireLength i := by
  rw [exec_of_idle _ ((State.busy_false_iff s).mpr hready.cflIdle)] at h
  refine (runTicks_keeps (fun u => LinkRun i s u ∧ (u.busy = true → LengthAt s u) ∧ (u.busy = false →
    u.block.status = .ok → u.wireOut.length = s.wireOut.length + wireLength i)) ?_ _ _ t
    ⟨linkRun_accept i hready,
      fun _ => ⟨by simp, by simp [ChunkPlan], _, _, requestAt_accept i hready, by simp [wireDone]⟩,
      by simp⟩ h).2.2 hend hst
  rintro u v ⟨hrun, hat, -⟩ hb hv
  obtain ⟨-, hp, W, I, hat, hlen⟩ := hat hb
  obtain ⟨t, w, htick⟩ := hrun.tick hready.cfgWf hi hat hb
  obtain rfl : v = w := Host.Outcome.next.inj (hv.symm.trans htick.tick)
  refine ⟨htick.after, ?_⟩
  rcases htick.length hb hp hlen with hat | ⟨hbv, hok⟩
  · exact ⟨fun _ => hat, fun hbv => absurd ((State.busy_false_iff v).mp hbv) hat.1⟩
  · exact ⟨fun hb => absurd hb (by simp [hbv]), fun _ => hok⟩

/-- Settles O40: a request that CHECK refuses puts nothing on the link, and one that it lets go on ends OK only when its
calls have put its wire length there. -/
theorem wireLengthOfEachRequest : Obligations.WireLengthOfEachRequest := by
  intro i s t hready h hend
  have hidle : s.busy = false := (State.busy_false_iff s).mpr hready.cflIdle
  cases hi : i.wellFormed with
  | true =>
    exact ⟨exec_wireLength hi hready h hend,
      fun hst => absurd hst (exec_status_ne_illegal hi hidle hready.noReset h hend)⟩
  | false =>
    rw [illegalRequestsLeaveThePeripheralToItself i s hi hidle hready.noReset,
      breathe_of_no_frame (by exact hready.frameNone), andThen_next] at h
    cases h
    exact ⟨fun hst => absurd hst (by simp), fun _ => (endRequest_actOnly _ _).wireOut⟩

end Sys2Proof.Machine

namespace Sys2Proof.Machine

/-! ## The other bits of CTL -/

/-- The bits of CTL outside FL and XCH, as it reads (R40). -/
def otherCtl (s : State) : Word := ctlValue s.cfg s.periph &&& ~~~(Config.flMask ||| s.cfg.xchMask)

/-- The states that read CTL and write it back (R114, R116, R118). -/
def WritesCtl (b : Block) : Prop := b.wte = .b1TrigOff ∨ b.wte = .b4Fl ∨ b.wte = .b6TrigOn

/-- The bits outside FL and XCH are those of s, and a state that is about to write CTL holds the value it reads as. -/
structure CtlKept (s u : State) : Prop where
  cfg : u.cfg = s.cfg
  other : otherCtl u = otherCtl s
  latch : WritesCtl u.block → u.block.phase = .last → u.block.latch = ctlValue u.cfg u.periph

/-- B1 writes back the bits outside XCH (R100). -/
theorem ctlTrigOff_other (c : Config) (l : Word) :
    ctlTrigOff c l &&& ~~~(Config.flMask ||| c.xchMask) = l &&& ~~~(Config.flMask ||| c.xchMask) := by
  ext i hi
  simp only [ctlTrigOff, BitVec.getElem_and, BitVec.getElem_not, BitVec.getElem_or]
  cases c.xchMask[i] <;> simp

/-- B6 writes back the bits outside XCH (R100). -/
theorem ctlTrigOn_other (c : Config) (l : Word) :
    ctlTrigOn c l &&& ~~~(Config.flMask ||| c.xchMask) = l &&& ~~~(Config.flMask ||| c.xchMask) := by
  ext i hi
  simp only [ctlTrigOn, BitVec.getElem_and, BitVec.getElem_not, BitVec.getElem_or]
  cases c.xchMask[i] <;> simp

/-- B4 writes back the bits outside FL (R99). -/
theorem ctlFrameLen_other (c : Config) (l : Word) (n : BitVec 6) :
    ctlFrameLen l n &&& ~~~(Config.flMask ||| c.xchMask) = l &&& ~~~(Config.flMask ||| c.xchMask) := by
  have hfield := frameLen_and_flMask (n - 1#6)
  rw [ctlFrameLen]
  generalize (n - 1#6).setWidth 32 <<< 16 = f at hfield ⊢
  ext i hi
  have hbit := congrArg (fun x => x[i]) hfield
  simp only [BitVec.getElem_and, BitVec.getElem_not, BitVec.getElem_or] at hbit ⊢
  cases hm : Config.flMask[i] <;> simp_all

section
variable {s u v : State}

theorem CtlKept.ctlRead (h : CtlKept s u) : CtlKept s (Machine.ctlRead u) :=
  ⟨h.cfg, h.other, fun _ _ => rfl⟩

/-- A write of the value read, changed in FL and XCH only. -/
theorem CtlKept.writeCtl (h : CtlKept s u) (hlatch : u.block.latch = ctlValue u.cfg u.periph) {x : Word} {b : Block}
    (hx : x &&& ~~~(Config.flMask ||| u.cfg.xchMask) = u.block.latch &&& ~~~(Config.flMask ||| u.cfg.xchMask))
    (hb : ¬ WritesCtl b) : CtlKept s ((Machine.writeCtl x u).withBlock b) := by
  refine ⟨(writeCtl_cfg x u).trans h.cfg, Eq.trans ?_ h.other, fun hw => absurd hw hb⟩
  have hread : ∀ y : Word, y &&& ~~~clearMask u.cfg &&& ~~~clearMask u.cfg = y &&& ~~~clearMask u.cfg := fun y => by
    rw [BitVec.and_assoc, BitVec.and_self]
  have hswap : ∀ y m k : Word, y &&& m &&& k = y &&& k &&& m := fun y m k => by
    rw [BitVec.and_assoc, BitVec.and_comm m, BitVec.and_assoc]
  calc otherCtl ((Machine.writeCtl x u).withBlock b)
      = x &&& ~~~clearMask u.cfg &&& ~~~(Config.flMask ||| u.cfg.xchMask) := by
        rw [otherCtl, ctlValue, State.withBlock_periph, State.withBlock_cfg, writeCtl_ctl, writeCtl_cfg, hread]
    _ = u.block.latch &&& ~~~clearMask u.cfg &&& ~~~(Config.flMask ||| u.cfg.xchMask) := by
        rw [hswap, hx, hswap]
    _ = otherCtl u := by rw [hlatch, otherCtl, ctlValue, hread]

/-- B1, B4 and B6 keep the bits outside FL and XCH (R114, R116, R118). -/
theorem CtlKept.act_of_writes (h : CtlKept s u) (hw : WritesCtl u.block) (hv : act u = .next v) : CtlKept s v := by
  have hn : u.block.wte ≠ .none := by rcases hw with hw | hw | hw <;> simp [hw]
  rw [act_eq_wteAct hn] at hv
  by_cases hp : u.block.phase = .last
  · have hlatch := h.latch hw hp
    rcases hw with hw | hw | hw <;> simp only [wteAct, hw, trigOff, setFl, trigOn, hp] at hv <;> cases hv
    · exact h.writeCtl hlatch (ctlTrigOff_other _ _) (by simp [WritesCtl])
    · exact h.writeCtl hlatch (ctlFrameLen_other _ _ _) (by simp [WritesCtl])
    · exact h.writeCtl hlatch (ctlTrigOn_other _ _) (by simp [WritesCtl])
  · rcases hw with hw | hw | hw <;>
      simp only [wteAct, hw, trigOff_of_not_last hp, setFl_of_not_last hp, trigOn_of_not_last hp] at hv <;> cases hv
    · exact h.ctlRead
    · exact h.ctlRead
    · exact h.ctlRead

/-- A move that writes CTL is of B1, B4 or B6. -/
theorem BlockMove.writesCtl {b b' : Block} {x : Word} (hm : BlockMove b [.mmioWrite .ctl x] b') : WritesCtl b := by
  rcases hm with ⟨-, hm⟩ | ⟨-, hm⟩
  · cases hm
  · cases hm with
    | trigOff _ hw => exact .inl hw
    | flSet _ hw => exact .inr (.inl hw)
    | trigOn _ hw => exact .inr (.inr hw)
    | packs _ _ _ _ _ hv => cases hv
    | stores _ _ _ _ _ hr => cases hr

@[simp] theorem wordDone_phase (after : Wte) (b : Block) : (wordDone after b).phase = .start := by
  rcases wordDone_cases after b with ⟨-, h⟩ | ⟨-, h⟩ <;> rw [h]

/-- A move into B1, B4 or B6 leads to the read of CTL. -/
theorem BlockMove.phase_of_writesCtl {b b' : Block} {es : List Event} (hm : BlockMove b es b') (hb : ¬ WritesCtl b)
    (hb' : WritesCtl b') : b'.phase ≠ .last := by
  rcases hm with ⟨hn, hm⟩ | ⟨-, hm⟩
  · rcases hm.wte hn with hw | ⟨hw, -⟩ <;> simp [WritesCtl, hw] at hb'
  · cases hm with
    | callReturns | trigOff | drainEnds | flSet | trigOn | burstEnds | givesUp => simp [WritesCtl] at hb'
    | burstBegins | txeHolds => simp
    | ctlRead _ hw => exact absurd hw hb
    | txdWritten | rxdDiscarded => simp
    | packs k es v hw =>
      obtain ⟨p, he⟩ := byteDone_last k { b with latch := setByte b.latch k v }
      rw [he] at hb'
      exact absurd hb' hb
    | stores k es r hw =>
      rcases byteDone_cases k (wordDone .next { b with resp := r }) { b with resp := r } with ⟨_, he⟩ | ⟨_, he⟩
      · rw [he]; simp
      · rw [he]; simp
    | _ => exact absurd hb' hb

theorem CtlKept.act (h : CtlKept s u) (hb : u.busy = true) (hv : Machine.act u = .next v) : CtlKept s v := by
  by_cases hw : WritesCtl u.block
  · exact h.act_of_writes hw hv
  · obtain ⟨es, hm, -, hacc⟩ := act_acts hb hv
    have hcfg := (act_actOnly hv).cfg
    have hctl : v.periph.ctl = u.periph.ctl := by
      cases hacc with
      | ctlWritten => exact absurd hm.writesCtl hw
      | quiet hp => rw [hp]
      | txdWritten _ _ hp => rw [hp]
      | rxdRead _ _ _ hp => rw [hp]
      | stored _ _ _ hp => rw [hp]
    refine ⟨hcfg.trans h.cfg, Eq.trans ?_ h.other, fun hwv hp => absurd hp (hm.phase_of_writesCtl hw hwv)⟩
    rw [otherCtl, otherCtl, ctlValue, ctlValue, hctl, hcfg]

theorem CtlKept.share (h : CtlKept s u) (k : PeriphOnly u v) : CtlKept s v := by
  obtain ⟨h1, h2, h3⟩ := h
  refine ⟨k.cfg.trans h1, Eq.trans ?_ h2, ?_⟩
  · rw [otherCtl, otherCtl, ctlValue, ctlValue, k.ctl, k.cfg]
  · rw [k.block, ctlValue, k.ctl, k.cfg]; exact h3

end

/-- Settles O36: each write of CTL writes back the value just read, but for FL and XCH. -/
theorem requestsKeepTheOtherBitsOfCtl : Obligations.RequestsKeepTheOtherBitsOfCtl := by
  intro i s t h
  cases hb : s.busy with
  | true =>
    rw [exec_of_busy i hb] at h
    cases h; rfl
  | false =>
    refine (exec_keeps_through_resets (CtlKept s) hb h ⟨by simp, ?_, by simp [WritesCtl]⟩ ?_ ?_
      (fun u v hu hv => hu.share hv) fun u v hu hbu hv => hu.act hbu hv).other
    · rw [otherCtl, otherCtl, ctlValue, ctlValue, accept_ctl, accept_cfg]
    · exact fun u r hu => ⟨hu.cfg, hu.other, hu.latch⟩
    · exact fun u hu => ⟨hu.cfg, hu.other, by simp [WritesCtl, blockReset, Block.reset]⟩

end Sys2Proof.Machine

namespace Sys2Proof.Machine

/-! ## CMD0 and its operands -/

/-- The outcome with `f` applied to what it carries. -/
def onNext {α : Type} (f : α → α) (o : Res α) : Res α := andThen o fun a => .next (f a)

@[simp] theorem onNext_next {α : Type} (f : α → α) (a : α) : onNext f (.next a) = .next (f a) := rfl

theorem onNext_ite {α : Type} (f : α → α) (p : Prop) [Decidable p] (x y : Res α) :
    onNext f (if p then x else y) = if p then onNext f x else onNext f y := apply_ite _ _ _ _

/-- Two steps that `f` and `g` pass through, one after the other. -/
theorem onNext_andThen {α β : Type} {f : α → α} {g : β → β} {o o' : Res α} {k : α → Res β}
    (ho : o' = onNext f o) (hk : ∀ a, k (f a) = onNext g (k a)) : andThen o' k = onNext g (andThen o k) := by
  subst ho
  cases o with
  | next a => exact hk a
  | fault r => rfl
  | refused r => rfl

/-- The state with other operands in the registers of the request (R50). -/
def State.withOperands (b n : Word) (s : State) : State := s.withBlock { s.block with buf := b, size := n }

/-- What a read leads to, with those operands. -/
def readWithOperands {α : Type} (b n : Word) (r : α × State) : α × State := (r.1, r.2.withOperands b n)

section
variable (b n : Word)

theorem withOperands_periph (s : State) : (s.withOperands b n).periph = s.periph := rfl
theorem withOperands_cfl (s : State) : (s.withOperands b n).block.cfl = s.block.cfl := rfl
theorem withOperands_wte (s : State) : (s.withOperands b n).block.wte = s.block.wte := rfl
theorem withOperands_phase (s : State) : (s.withOperands b n).block.phase = s.block.phase := rfl
theorem withOperands_wDir (s : State) : (s.withOperands b n).block.wDir = s.block.wDir := rfl
theorem withOperands_wSrc (s : State) : (s.withOperands b n).block.wSrc = s.block.wSrc := rfl

theorem withOperands_ite (p : Prop) [Decidable p] (x y : State) :
    (if p then x else y).withOperands b n = if p then x.withOperands b n else y.withOperands b n :=
  apply_ite _ _ _ _

/-! ### The peripheral's share -/

theorem exchange_withOperands (v : Byte) (s : State) :
    exchange v (s.withOperands b n) = readWithOperands b n (exchange v s) := by
  unfold exchange
  rw [withOperands_periph]
  split <;> rfl

theorem frameWordDone_withOperands (a : Word) (s : State) :
    frameWordDone a (s.withOperands b n) = onNext (.withOperands b n) (frameWordDone a s) := by
  unfold frameWordDone
  rw [onNext_ite]; rfl

theorem frameExchange_withOperands (f : Frame) (s : State) :
    frameExchange f (s.withOperands b n) = onNext (.withOperands b n) (frameExchange f s) := by
  have hdone (a : Word) (u : State) (g : Option Frame) :
      andThen (frameWordDone a (u.withOperands b n)) (fun t => .next (setFrame g t))
        = onNext (.withOperands b n) (andThen (frameWordDone a u) fun t => .next (setFrame g t)) :=
    onNext_andThen (frameWordDone_withOperands b n a u) fun _ => rfl
  simp only [frameExchange, exchange_withOperands, onNext_ite, ← hdone]
  rfl

theorem frameByte_withOperands (f : Frame) (s : State) :
    frameByte f (s.withOperands b n) = onNext (.withOperands b n) (frameByte f s) := by
  unfold frameByte
  rw [withOperands_periph, onNext_ite, ← frameExchange_withOperands]
  cases s.periph.tx with
  | nil => rfl
  | cons w l => dsimp only; rw [← frameExchange_withOperands]; rfl

theorem periphRun_withOperands (k : Nat) (s : State) :
    periphRun k (s.withOperands b n) = onNext (.withOperands b n) (periphRun k s) := by
  induction k generalizing s with
  | zero => rfl
  | succ k ih =>
    unfold periphRun
    rw [withOperands_periph]
    cases s.periph.frame with
    | none => rfl
    | some f => exact onNext_andThen (frameByte_withOperands b n f s) ih

theorem breathe_withOperands (s : State) :
    breathe (s.withOperands b n) = onNext (.withOperands b n) (breathe s) := by
  unfold breathe
  rw [withOperands_periph]
  cases s.periph.frame with
  | none => rfl
  | some f => exact periphRun_withOperands b n _ (drawSched s).2

/-! ### The actions of a call -/

theorem writeCtl_withOperands (v : Word) (s : State) :
    writeCtl v (s.withOperands b n) = (writeCtl v s).withOperands b n := by
  have heffect : writeCtlEffect v (s.withOperands b n) = (writeCtlEffect v s).withOperands b n := by
    simp only [writeCtlEffect, withOperands_ite]; rfl
  rw [writeCtl, heffect]; rfl

theorem readRxd_withOperands (s : State) :
    readRxd (s.withOperands b n) = onNext (readWithOperands b n) (readRxd s) := by
  unfold readRxd
  rw [withOperands_periph]
  split <;> rfl

theorem writeTxd_withOperands (v : Word) (s : State) :
    writeTxd v (s.withOperands b n) = onNext (.withOperands b n) (writeTxd v s) := by
  unfold writeTxd
  rw [onNext_ite]; rfl

theorem srcByte_withOperands (i : Nat) (s : State) :
    srcByte i (s.withOperands b n) = onNext (readWithOperands b n) (srcByte i s) := by
  have hstore (o : Option Byte) :
      storeByteAt o (s.withOperands b n) = onNext (readWithOperands b n) (storeByteAt o s) := by cases o <;> rfl
  unfold srcByte
  rw [withOperands_wSrc]
  cases s.block.wSrc with
  | buf => simp only [memRead, onNext_ite]; rfl
  | hdr | trl | cmd0f => exact hstore _
  | resp => rfl

theorem dstByte_withOperands (i : Nat) (v : Byte) (s : State) :
    dstByte i v (s.withOperands b n) = onNext (.withOperands b n) (dstByte i v s) := by
  unfold dstByte
  rw [withOperands_wSrc]
  cases s.block.wSrc with
  | buf => simp only [memWrite, onNext_ite]; rfl
  | resp => simp only [onNext_ite]; rfl
  | hdr | trl | cmd0f => rfl

theorem waitPoll_withOperands (t : StaTest) {onHold : State → State}
    (ho : ∀ s, onHold (s.withOperands b n) = (onHold s).withOperands b n) (s : State) :
    waitPoll t onHold (s.withOperands b n) = onNext (.withOperands b n) (waitPoll t onHold s) := by
  have hread : readSta (s.withOperands b n) = readWithOperands b n (readSta s) := rfl
  simp only [waitPoll, hread, readWithOperands, ho, onNext_ite]
  rfl

theorem nextWord_withOperands (w : Wte) (s : State) :
    nextWord (goWte w) (s.withOperands b n) = (nextWord (goWte w) s).withOperands b n := by
  simp only [nextWord, withOperands_ite]
  rfl

theorem nextByte_withOperands (k : Fin 4) {fin : State → State}
    (hf : ∀ s, fin (s.withOperands b n) = (fin s).withOperands b n) (s : State) :
    nextByte k fin (s.withOperands b n) = (nextByte k fin s).withOperands b n := by
  unfold nextByte
  split
  · rfl
  · exact hf s

theorem packByte_withOperands (k : Fin 4) (s : State) :
    packByte k (s.withOperands b n) = onNext (.withOperands b n) (packByte k s) := by
  have hnext := nextByte_withOperands b n k (fin := goPhase .last) fun _ => rfl
  simp only [packByte, onNext_ite]
  congr 1
  · exact onNext_andThen (srcByte_withOperands b n _ s) fun r =>
      congrArg _ (hnext (r.2.withBlock { r.2.block with latch := setByte r.2.block.latch k r.1 }))
  · exact congrArg _ (hnext (s.withBlock { s.block with latch := setByte s.block.latch k 0 }))

theorem unpackByte_withOperands (k : Fin 4) (s : State) :
    unpackByte k (s.withOperands b n) = onNext (.withOperands b n) (unpackByte k s) := by
  have hnext := nextByte_withOperands b n k (nextWord_withOperands b n .next)
  simp only [unpackByte, onNext_ite]
  congr 1
  · exact onNext_andThen (dstByte_withOperands b n _ _ s) fun t => congrArg _ (hnext t)
  · exact congrArg _ (hnext s)

theorem takeRxWord_withOperands (s : State) :
    takeRxWord (s.withOperands b n) = onNext (.withOperands b n) (takeRxWord s) := by
  refine onNext_andThen (readRxd_withOperands b n s) fun ⟨w, t⟩ => ?_
  dsimp only [readWithOperands]
  rw [withOperands_wDir]
  cases t.block.wDir with
  | send => exact congrArg _ (nextWord_withOperands b n .next t)
  | receive => rfl

theorem drain_withOperands (s : State) : drain (s.withOperands b n) = onNext (.withOperands b n) (drain s) := by
  have hpoll : drainPoll (s.withOperands b n) = (drainPoll s).withOperands b n := by
    simp only [drainPoll, withOperands_ite]; rfl
  unfold drain
  rw [withOperands_phase]
  cases s.block.phase with
  | last => exact onNext_andThen (readRxd_withOperands b n s) fun _ => rfl
  | start | byte _ => exact congrArg _ hpoll
  | giveUp => rfl

theorem waitTxe_withOperands (s : State) :
    waitTxe (s.withOperands b n) = onNext (.withOperands b n) (waitTxe s) := by
  have hpoll := waitPoll_withOperands b n .txe (onHold := goWte .b4Fl) (fun _ => rfl) s
  unfold waitTxe
  rw [withOperands_phase]
  cases s.block.phase with
  | giveUp => rfl
  | start | byte _ | last => exact hpoll

theorem txWords_withOperands (s : State) :
    txWords (s.withOperands b n) = onNext (.withOperands b n) (txWords s) := by
  have hbegin (u : State) : beginTxWord (u.withOperands b n) = (beginTxWord u).withOperands b n := by
    unfold beginTxWord
    rw [withOperands_wDir]
    split <;> rfl
  unfold txWords
  rw [withOperands_phase]
  cases s.block.phase with
  | start => exact waitPoll_withOperands b n .notTxf hbegin s
  | byte k => exact packByte_withOperands b n k s
  | last =>
    exact onNext_andThen (writeTxd_withOperands b n _ s) fun t => congrArg _ (nextWord_withOperands b n .b6TrigOn t)
  | giveUp => rfl

theorem rxWords_withOperands (s : State) :
    rxWords (s.withOperands b n) = onNext (.withOperands b n) (rxWords s) := by
  unfold rxWords
  rw [withOperands_phase]
  cases s.block.phase with
  | start => exact waitPoll_withOperands b n .notRxe (onHold := goPhase .last) (fun _ => rfl) s
  | last => exact takeRxWord_withOperands b n s
  | byte k => exact unpackByte_withOperands b n k s
  | giveUp => rfl

/-- No action of a call reads the operands: they stand in w_base and w_size (R110). -/
theorem wteAct_withOperands (s : State) : wteAct (s.withOperands b n) = onNext (.withOperands b n) (wteAct s) := by
  have htop : wTop (s.withOperands b n) = (wTop s).withOperands b n := by
    simp only [wTop, withOperands_ite]; rfl
  have hoff : trigOff (s.withOperands b n) = (trigOff s).withOperands b n := by
    unfold trigOff
    rw [withOperands_phase, writeCtl_withOperands]
    split <;> rfl
  have hfl : setFl (s.withOperands b n) = (setFl s).withOperands b n := by
    unfold setFl
    rw [withOperands_phase, writeCtl_withOperands]
    split <;> rfl
  have hon : trigOn (s.withOperands b n) = (trigOn s).withOperands b n := by
    unfold trigOn
    rw [withOperands_phase, writeCtl_withOperands]
    split <;> rfl
  unfold wteAct
  rw [withOperands_wte]
  cases s.block.wte with
  | none | next => rfl
  | top => exact congrArg _ htop
  | b1TrigOff => exact congrArg _ hoff
  | b2Drain => exact drain_withOperands b n s
  | b3Txe => exact waitTxe_withOperands b n s
  | b4Fl => exact congrArg _ hfl
  | b5Words => exact txWords_withOperands b n s
  | b6TrigOn => exact congrArg _ hon
  | b7Rx => exact rxWords_withOperands b n s

/-! ### The request -/

/-- No state of CMD0 reads the operands (R83, R145). -/
theorem cflAct_withOperands {s : State} (hop : s.block.op = 0b010#3) (hok : requestOk s.block) :
    cflAct (s.withOperands b n) = (cflAct s).withOperands b n := by
  unfold cflAct
  rw [withOperands_cfl]
  cases hc : s.block.cfl with
  | check =>
    change checkRequest (s.withOperands b n) = (checkRequest s).withOperands b n
    rw [checkRequest_cmd0 hop, checkRequest_cmd0 (by exact hop)]; rfl
  | idle | c0Send | c0Recv | c0Eval => rfl
  | _ => simp [requestOk, hc, hop] at hok

theorem act_withOperands {s : State} (hop : s.block.op = 0b010#3) (hok : requestOk s.block) :
    act (s.withOperands b n) = onNext (.withOperands b n) (act s) := by
  by_cases hw : s.block.wte = .none
  · rw [act_eq_cflAct hw, act_eq_cflAct (by exact hw), cflAct_withOperands b n hop hok]; rfl
  · rw [act_eq_wteAct hw, act_eq_wteAct (by exact hw), wteAct_withOperands]

theorem runTicks_withOperands {buf size : Word} (k : Nat) : ∀ s : State, s.env.resets = [] →
    RunsRequest (.cmd0 buf size) s.block →
      runTicks k (s.withOperands b n) = onNext (.withOperands b n) (runTicks k s) := by
  induction k with
  | zero => intro s _ _; rfl
  | succ k ih =>
    intro s hr hrun
    cases hb : s.busy with
    | false => rw [runTicks_idle _ hb, runTicks_idle _ (by exact hb)]; rfl
    | true =>
      rw [runTicks_busy k hb, runTicks_busy k (by exact hb), tick_of_no_reset hr, tick_of_no_reset (by exact hr),
        breathe_withOperands, andThen_assoc]
      cases hu : breathe s with
      | fault r => rfl
      | refused r => rfl
      | next u =>
        have honly := breathe_periphOnly hu
        have hrunu : RunsRequest (.cmd0 buf size) u.block := honly.block ▸ hrun
        have hbu : u.busy = true := by rw [State.busy, honly.block]; exact hb
        rw [onNext_next, andThen_next, andThen_next, act_withOperands b n hrunu.op hrunu.ok.requestOk]
        cases ht : act u with
        | fault r => rfl
        | refused r => rfl
        | next t => exact ih t (by rw [(act_actOnly ht).resets, honly.resets, hr]) (hrunu.act hbu ht)

theorem accept_cmd0_withOperands (buf size : Word) (s : State) :
    accept 0b010#3 b n s = (accept 0b010#3 buf size s).withOperands b n := by
  rfl

end

/-- Settles O42: acceptance loads the operands, and no action of CMD0 reads them or accesses a byte of memory. -/
theorem cmd0IgnoresItsOperands : Obligations.Cmd0IgnoresItsOperands := by
  intro s buf size buf' size' hb hr
  constructor
  · rw [exec_of_idle _ hb, exec_of_idle _ hb]
    change runTicks tickFuel (accept 0b010#3 buf' size' s) = _
    rw [accept_cmd0_withOperands buf' size' buf size]
    exact runTicks_withOperands buf' size' tickFuel _ (by simpa using hr) (runsRequest_accept (.cmd0 buf size) s)
  · intro t h
    exact ((receivingRequestsWriteTheBufferInOrder (.cmd0 buf size) s t buf size hb hr h).2 (.inl rfl)).symm

end Sys2Proof.Machine

namespace Sys2Proof.Machine

/-! ## The bursts of a call -/

/-- Where a move of a running call leaves it (R111): it returns, it begins or ends a burst, it gives up, or it goes on
inside the burst. -/
inductive BurstMove (b b' : Block) : Prop
  | returns (hw : b.wte = .top) (hall : b.wOff = b.wSize) (hb : b' = { b with wte := .none, cfl := afterCall b.cfl })
  | begins (hw : b.wte = .top) (hne : b.wOff ≠ b.wSize)
      (hb : b' = { b with blen := burstLen b, wte := .b1TrigOff, phase := .start })
  | inside (ht : b.wte ≠ .top) (hn : b.wte ≠ .next) (hn' : b'.wte ≠ .none) (ht' : b'.wte ≠ .top)
      (hlen : b'.blen = b.blen) (hoff : b'.wOff = b.wOff) (hsize : b'.wSize = b.wSize)
  | ends (hw : b.wte = .next)
      (hb : b' = { b with wOff := b.wOff + b.blen.setWidth 32, wte := .top, phase := .start })
  | givesUp (hb : b' = { b with status := .deviceNotResponding, cfl := .idle, wte := .none })

theorem burstMove_wordDone {b b' : Block} {after : Wte} (hw : b.wte = .b5Words ∨ b.wte = .b7Rx)
    (ha : after = .b6TrigOn ∨ after = .next) (hb : b' = wordDone after b) : BurstMove b b' := by
  have hin : b.wte ≠ .none ∧ b.wte ≠ .top ∧ b.wte ≠ .next := by rcases hw with hw | hw <;> simp [hw]
  obtain ⟨hn, ht, hx⟩ := hin
  subst hb
  rcases wordDone_cases after b with ⟨-, he⟩ | ⟨-, he⟩ <;> rw [he]
  · exact .inside ht hx hn ht rfl rfl rfl
  · rcases ha with rfl | rfl
    · exact .inside ht hx (by simp) (by simp) rfl rfl rfl
    · exact .inside ht hx (by simp) (by simp) rfl rfl rfl

theorem WteMove.burstMove {b b' : Block} {es : List Event} (hm : WteMove b es b') : BurstMove b b' := by
  cases hm with
  | callReturns hw he => exact .returns hw he rfl
  | burstBegins hw hne => exact .begins hw hne rfl
  | burstEnds hw => exact .ends hw rfl
  | givesUp => exact .givesUp rfl
  | ctlRead v hw =>
    have hin : b.wte ≠ .none ∧ b.wte ≠ .top ∧ b.wte ≠ .next := by rcases hw with hw | hw | hw <;> simp [hw]
    exact .inside hin.2.1 hin.2.2 hin.1 hin.2.1 rfl rfl rfl
  | waitGoesOn v p hw =>
    have hin : b.wte ≠ .none ∧ b.wte ≠ .top ∧ b.wte ≠ .next := by rcases hw with hw | ⟨hw | hw, -⟩ <;> simp [hw]
    exact .inside hin.2.1 hin.2.2 hin.1 hin.2.1 rfl rfl rfl
  | packs k es v hw =>
    obtain ⟨p, he⟩ := byteDone_last k { b with latch := setByte b.latch k v }
    rw [he]
    exact .inside (by simp [hw]) (by simp [hw]) (by simp [hw]) (by simp [hw]) rfl rfl rfl
  | txdWritten hw => exact burstMove_wordDone (.inl hw) (.inl rfl) rfl
  | rxdDiscarded w hw => exact burstMove_wordDone (.inr hw) (.inr rfl) rfl
  | stores k es r hw =>
    rcases byteDone_cases k (wordDone .next { b with resp := r }) { b with resp := r } with ⟨_, he⟩ | ⟨_, he⟩ <;> rw [he]
    · exact .inside (by simp [hw]) (by simp [hw]) (by simp [hw]) (by simp [hw]) rfl rfl rfl
    · have hin : b.wte ≠ .none ∧ b.wte ≠ .top ∧ b.wte ≠ .next := by simp [hw]
      rcases wordDone_cases .next { b with resp := r } with ⟨-, he⟩ | ⟨-, he⟩ <;> rw [he]
      · exact .inside hin.2.1 hin.2.2 hin.1 hin.2.1 rfl rfl rfl
      · exact .inside hin.2.1 hin.2.2 (by simp) (by simp) rfl rfl rfl
  | trigOff _ hw | drainEnds _ hw | txeHolds _ hw | flSet _ hw | trigOn _ hw =>
    exact .inside (by simp [hw]) (by simp [hw]) (by simp) (by simp) rfl rfl rfl
  | drainGoesOn _ _ hw | drainTakes _ hw | dummyWordBegins _ hw | sendWordBegins _ hw | rxeHolds _ hw | rxdTaken _ hw =>
    exact .inside (by simp [hw]) (by simp [hw]) (by simp [hw]) (by simp [hw]) rfl rfl rfl

/-- The bursts of a call are whole, but for its last one (R111). -/
def BurstPlan (b : Block) : Prop :=
  match b.wte with
  | .none => True
  | .top => (b.wOff.toNat % burstMax = 0 ∨ b.wOff = b.wSize) ∧ (b.wOff ≠ 0 → b.blen.toNat = lastBurst b.wOff.toNat)
  | _ => b.wOff.toNat % burstMax = 0 ∧ b.blen.toNat = min (b.wSize.toNat - b.wOff.toNat) burstMax

theorem burstPlan_iff {b : Block} (hn : b.wte ≠ .none) (ht : b.wte ≠ .top) :
    BurstPlan b ↔ b.wOff.toNat % burstMax = 0 ∧ b.blen.toNat = min (b.wSize.toNat - b.wOff.toNat) burstMax := by
  unfold BurstPlan
  split <;> simp_all

/-- The bytes completed once the burst is (R111). -/
theorem BlockOk.toNat_wOff_add {b : Block} (h : BlockOk b) (hw : b.wte = .next) :
    (b.wOff + b.blen.setWidth 32).toNat = b.wOff.toNat + b.blen.toNat := by
  obtain ⟨⟨-, hmax, hle⟩, -⟩ := (burstOk_iff (by simp [hw]) (by simp [hw])).mp h.burstOk
  have hlt := b.wSize.isLt
  unfold burstMax at hmax
  rw [BitVec.toNat_add, BitVec.toNat_setWidth]; omega

theorem BurstMove.keeps_plan {b b' : Block} (hm : BurstMove b b') (hn : b.wte ≠ .none) (hok : BlockOk b)
    (h : BurstPlan b) : BurstPlan b' := by
  cases hm with
  | returns hw hall hb => subst hb; trivial
  | begins hw hne hb =>
    subst hb
    simp only [BurstPlan, hw] at h
    exact ⟨h.1.resolve_right hne, toNat_burstLen b⟩
  | inside ht hx hn' ht' hlen hoff hsize =>
    rw [burstPlan_iff hn' ht', hlen, hoff, hsize]
    exact (burstPlan_iff hn ht).mp h
  | ends hw hb =>
    subst hb
    obtain ⟨hoff, hlen⟩ := (burstPlan_iff hn (by simp [hw])).mp h
    obtain ⟨⟨hpos, -, -⟩, -⟩ := (burstOk_iff hn (by simp [hw])).mp hok.burstOk
    have hsum := hok.toNat_wOff_add hw
    refine ⟨?_, fun _ => ?_⟩
    · by_cases hfull : (b.wOff + b.blen.setWidth 32).toNat = b.wSize.toNat
      · exact .inr (BitVec.eq_of_toNat_eq hfull)
      · refine .inl ?_
        rw [hsum]
        unfold burstMax at *
        omega
    · simp only [hsum, lastBurst]
      unfold burstMax at *
      split <;> omega
  | givesUp hb => subst hb; trivial

theorem CflMove.burstPlan {b b' : Block} {es : List Event} (hm : CflMove b es b') (hn : b.wte = .none) :
    BurstPlan b' := by
  rcases hm.wte hn with hw | ⟨hw, hoff⟩
  · simp [BurstPlan, hw]
  · simp [BurstPlan, hw, hoff]

theorem BlockMove.keeps_plan {b b' : Block} {es : List Event} (hm : BlockMove b es b') (hok : BlockOk b)
    (h : BurstPlan b) : BurstPlan b' := by
  rcases hm with ⟨hn, hm⟩ | ⟨hn, hm⟩
  · exact hm.burstPlan hn
  · exact hm.burstMove.keeps_plan hn hok h

end Sys2Proof.Machine

namespace Sys2Proof.Machine

/-! ## What a burst leaves in CTL and in the RX FIFO -/

/-- A burst of the one call of a SEND or RECV has been completed, and the next one has not begun (R111, R125, R128). -/
def AfterBurst (b : Block) : Prop :=
  b.wte = .next ∨ (b.wte = .top ∧ b.wOff ≠ 0) ∨ (b.wte = .none ∧ b.cfl = .finish ∧ b.size ≠ 0)

/-- FL and XCH from the trigger of a burst on (R116, R118, R126), and the RX FIFO from its end on (R119, R120). -/
structure Trailing (u : State) : Prop where
  ctl : u.block.wte = .b7Rx ∨ AfterBurst u.block → FlSet u ∧ u.periph.ctl &&& u.cfg.xchMask = u.cfg.xchMask
  rx : AfterBurst u.block → u.periph.rx = []

/-- An action that writes no CTL leaves it. -/
theorem Access.ctl_eq {s t : State} {es : List Event} (h : Access s t es) (hes : ∀ v, Event.mmioWrite .ctl v ∉ es) :
    t.periph.ctl = s.periph.ctl := by
  cases h with
  | quiet hp => rw [hp]
  | ctlWritten v => exact absurd (by simp) (hes v)
  | txdWritten v _ hp => rw [hp]
  | rxdRead w rest _ hp => rw [hp]
  | stored a v _ hp => rw [hp]

/-- An empty RX FIFO stays empty through an action of the block. -/
theorem Access.rx_nil {s t : State} {es : List Event} (h : Access s t es) (hr : s.periph.rx = []) :
    t.periph.rx = [] := by
  cases h with
  | quiet hp => rw [hp, hr]
  | ctlWritten v hp => rw [hp, writeCtl_rx, hr, ite_self]
  | txdWritten v _ hp => rw [hp]; exact hr
  | rxdRead w rest hrx => rw [hr] at hrx; cases hrx
  | stored a v _ hp => rw [hp, hr]

theorem not_afterBurst {b : Block} (hn : b.wte ≠ .none) (ht : b.wte ≠ .top) (hx : b.wte ≠ .next) : ¬ AfterBurst b := by
  rintro (h | ⟨h, -⟩ | ⟨h, -⟩)
  · exact hx h
  · exact ht h
  · exact hn h

/-- A move that leads to a place after a burst comes from the burst's last RX word or from another such place, and
writes no CTL. -/
structure FromBurst (b : Block) (es : List Event) (b' : Block) : Prop where
  place : b.wte = .b7Rx ∧ b'.wte = .next ∨ AfterBurst b
  blen : b'.blen = b.blen
  quiet : ∀ v, Event.mmioWrite .ctl v ∉ es

theorem fromBurst_wordDone {b b' : Block} {es : List Event} (hw : b.wte = .b7Rx) (hb : b' = wordDone .next b)
    (hes : ∀ v, Event.mmioWrite .ctl v ∉ es) (h : AfterBurst b') : FromBurst b es b' := by
  subst hb
  rcases wordDone_cases .next b with ⟨-, he⟩ | ⟨-, he⟩ <;> rw [he] at h ⊢
  · exact absurd h (not_afterBurst (by simp [hw]) (by simp [hw]) (by simp [hw]))
  · exact ⟨.inl ⟨hw, rfl⟩, rfl, hes⟩

theorem WteMove.fromBurst {b b' : Block} {es : List Event} (hm : WteMove b es b') (hok : BlockOk b)
    (hn : b.wte ≠ .none) (h : AfterBurst b') : FromBurst b es b' := by
  cases hm with
  | callReturns hw hall =>
    have hcall := hok.callOk hn
    obtain ⟨-, hfin, hsize⟩ : b.wte = .top ∧ afterCall b.cfl = .finish ∧ b.size ≠ 0 := by
      rcases h with h | ⟨h, -⟩ | ⟨-, h⟩
      · cases h
      · cases h
      · exact ⟨hw, h⟩
    have hcsize : b.wSize = b.size := by
      cases hc : b.cfl <;> simp_all [callOk, afterCall]
    exact ⟨.inr (.inr (.inl ⟨hw, by rw [hall, hcsize]; exact hsize⟩)), rfl, by simp⟩
  | burstEnds hw => exact ⟨.inr (.inl hw), rfl, by simp⟩
  | rxdDiscarded w hw => exact fromBurst_wordDone hw rfl (by simp) h
  | stores k es r hw hp hr =>
    have hes : ∀ v, Event.mmioWrite .ctl v ∉ es := by cases hr <;> simp
    rcases byteDone_cases k (wordDone .next { b with resp := r }) { b with resp := r } with ⟨_, he⟩ | ⟨_, he⟩ <;>
    rw [he] at h ⊢
    · exact absurd h (not_afterBurst hn (by simp [hw]) (by simp [hw]))
    · obtain ⟨hplace, hlen, -⟩ := fromBurst_wordDone (b := { b with resp := r }) (es := es) hw rfl hes h
      exact ⟨hplace, hlen, hes⟩
  | givesUp => simp [AfterBurst] at h
  | txdWritten hw =>
    refine absurd h ?_
    rcases wordDone_cases .b6TrigOn b with ⟨-, he⟩ | ⟨-, he⟩ <;> rw [he]
    · exact not_afterBurst hn (by simp [hw]) (by simp [hw])
    · exact not_afterBurst (by simp) (by simp) (by simp)
  | packs k es v hw =>
    obtain ⟨p, he⟩ := byteDone_last k { b with latch := setByte b.latch k v }
    rw [he] at h
    exact absurd h (not_afterBurst hn (by simp [hw]) (by simp [hw]))
  | ctlRead v hw =>
    refine absurd h (not_afterBurst hn ?_ ?_) <;> rcases hw with hw | hw | hw <;> simp [hw]
  | waitGoesOn v p hw =>
    refine absurd h (not_afterBurst hn ?_ ?_) <;> rcases hw with hw | ⟨hw | hw, -⟩ <;> simp [hw]
  | burstBegins | trigOff | drainEnds | txeHolds | flSet | trigOn =>
    exact absurd h (not_afterBurst (by simp) (by simp) (by simp))
  | drainGoesOn _ _ hw | drainTakes _ hw | dummyWordBegins _ hw | sendWordBegins _ hw | rxeHolds _ hw | rxdTaken _ hw =>
    exact absurd h (not_afterBurst hn (by simp [hw]) (by simp [hw]))

theorem CflMove.not_afterBurst {b b' : Block} {es : List Event} (hm : CflMove b es b') (hok : BlockOk b)
    (hn : b.wte = .none) (hop : b.op = 0b000#3 ∨ b.op = 0b001#3) : ¬ AfterBurst b' := by
  have hreq := hok.requestOk
  intro h
  cases hm with
  | noChunkLeft hc =>
    simp only [requestOk, hc] at hreq
    rcases hop with hop | hop <;> simp [hop] at hreq
  | bufferChecked c hc hb hcc => rcases hcc with ⟨-, rfl⟩ | ⟨-, rfl⟩ <;> simp [AfterBurst, hn] at h
  | _ => simp [AfterBurst, hn] at h

theorem BlockMove.fromBurst {b b' : Block} {es : List Event} (hm : BlockMove b es b') (hok : BlockOk b)
    (hop : b.op = 0b000#3 ∨ b.op = 0b001#3) (h : AfterBurst b') : FromBurst b es b' := by
  rcases hm with ⟨hn, hm⟩ | ⟨hn, hm⟩
  · exact absurd h (hm.not_afterBurst hok hn hop)
  · exact hm.fromBurst hok hn h

/-- B7 is come to from B6, or it goes on without a write of CTL. -/
theorem BlockMove.fromTrigger {b b' : Block} {es : List Event} (hm : BlockMove b es b') (h : b'.wte = .b7Rx) :
    b.wte = .b6TrigOn ∨ b.wte = .b7Rx ∧ b'.blen = b.blen ∧ ∀ v, Event.mmioWrite .ctl v ∉ es := by
  rcases hm with ⟨hn, hm⟩ | ⟨hn, hm⟩
  · rcases hm.wte hn with hw | ⟨hw, -⟩ <;> rw [hw] at h <;> cases h
  · cases hm with
    | trigOn v hw => exact .inl hw
    | waitGoesOn v p hw => exact .inr ⟨h, rfl, by simp⟩
    | rxeHolds v hw => exact .inr ⟨hw, rfl, by simp⟩
    | rxdTaken w hw => exact .inr ⟨hw, rfl, by simp⟩
    | rxdDiscarded w hw =>
      obtain ⟨p, x, he⟩ := wordDone_eq .next b
      exact .inr ⟨hw, by rw [he], by simp⟩
    | stores k es r hw hp hr =>
      obtain ⟨p, x, hd⟩ := wordDone_eq .next { b with resp := r }
      refine .inr ⟨hw, ?_, by cases hr <;> simp⟩
      rcases byteDone_cases k (wordDone .next { b with resp := r }) { b with resp := r } with ⟨_, he⟩ | ⟨_, he⟩ <;>
        rw [he]
      rw [hd]
    | packs k es v hw =>
      obtain ⟨p, he⟩ := byteDone_last k { b with latch := setByte b.latch k v }
      rw [he] at h
      exact absurd (hw.symm.trans h) (by simp)
    | txdWritten hw =>
      rcases wordDone_cases .b6TrigOn b with ⟨-, he⟩ | ⟨-, he⟩ <;> rw [he] at h
      · exact absurd (hw.symm.trans h) (by simp)
      · cases h
    | ctlRead v hw => rcases hw with hw | hw | hw <;> exact absurd (hw.symm.trans h) (by simp)
    | drainGoesOn _ _ hw | drainTakes _ hw | dummyWordBegins _ hw | sendWordBegins _ hw =>
      exact absurd (hw.symm.trans h) (by simp)
    | _ => cases h

section
variable {W I : List Byte} {u v : State}

/-- B6 sets XCH and leaves FL (R118, R126). -/
theorem BurstAt.triggers (h : BurstAt W I u) (hcfg : u.cfg.wf = true) (hw : u.block.wte = .b6TrigOn)
    (ha : act u = .next v) (hv : v.block.wte = .b7Rx) : FlSet v ∧ v.periph.ctl &&& v.cfg.xchMask = v.cfg.xchMask := by
  cases h with
  | trigOn _ hn hx hr hfl hlatch =>
    have hact : act u = .next (Machine.trigOn u) := by rw [act_eq_of_wte hw (by simp), wteAct, hw]
    rw [hact] at ha
    by_cases hp : u.block.phase = .last
    · rw [Machine.trigOn, hp, goWords, writeCtl_block] at ha
      cases ha
      refine ⟨?_, ?_⟩
      · simp only [FlSet, State.withBlock_periph, State.withBlock_block]
        rw [writeCtl_ctl, ctlFl_and_not_clear hcfg, ctlFl_trigOn hcfg, hlatch hp, ctlValue, ctlFl_and_not_clear hcfg]
        exact hfl
      · simp only [State.withBlock_periph, State.withBlock_cfg, writeCtl_cfg]
        rw [writeCtl_xch hcfg, ctlTrigOn_and_xch]
    · rw [trigOn_of_not_last hp] at ha
      cases ha
      exact absurd (hw.symm.trans hv) (by simp)
  | before hw' => rcases hw' with hw' | hw' | hw' <;> exact absurd (hw'.symm.trans hw) (by simp)
  | drain hw' | txe hw' | fl hw' | words hw' | rx hw' | done hw' => exact absurd (hw'.symm.trans hw) (by simp)

/-- The last RX word of a burst leaves the RX FIFO empty (R120). -/
theorem BurstAt.rx_nil (h : BurstAt W I v) (hw : v.block.wte = .next) : v.periph.rx = [] := by
  cases h with
  | done _ _ hr => exact hr
  | before hw' => rcases hw' with hw' | hw' | hw' <;> exact absurd (hw'.symm.trans hw) (by simp)
  | drain hw' | txe hw' | fl hw' | words hw' | rx hw' | trigOn hw' => exact absurd (hw'.symm.trans hw) (by simp)

end

section
variable {i : Instr} {s u t v : State} {W I : List Byte}

theorem Trailing.share (h : Trailing u) (k : PeriphOnly u t) (hrx : u.block.wte ≠ .b7Rx → t = u) : Trailing t := by
  by_cases hw : u.block.wte = .b7Rx
  · refine ⟨fun hb => ?_, fun hb => ?_⟩
    · rw [k.block] at hb
      simpa only [FlSet, k.ctl, k.block, k.cfg] using h.ctl hb
    · rw [k.block] at hb
      exact absurd hb (not_afterBurst (by simp [hw]) (by simp [hw]) (by simp [hw]))
  · rw [hrx hw]; exact h

/-- A tick of a SEND or RECV keeps what its bursts have left in CTL and in the RX FIFO. -/
theorem RequestTick.trailing (h : RequestTick i s W I u t v) (hcfg : s.cfg.wf = true) (hb : u.busy = true)
    (hop : i.op = 0b000#3 ∨ i.op = 0b001#3) (hu : Trailing u) : Trailing v := by
  have ht := hu.share h.share.only h.unmoved
  have hbt : t.busy = true := by rw [State.busy, h.block]; exact hb
  have hcfgt : t.cfg = s.cfg := h.before.cfg
  obtain ⟨es, hm, -, hacc⟩ := act_acts hbt h.act.act
  have hok := h.before.runs.ok
  have hopt : t.block.op = 0b000#3 ∨ t.block.op = 0b001#3 := by rw [h.before.runs.op]; exact hop
  have hkeep : (∀ x, Event.mmioWrite .ctl x ∉ es) → v.block.blen = t.block.blen →
      t.block.wte = .b7Rx ∨ AfterBurst t.block → FlSet v ∧ v.periph.ctl &&& v.cfg.xchMask = v.cfg.xchMask := by
    intro hes hlen hplace
    rw [FlSet, hacc.ctl_eq hes, hlen, (act_actOnly h.act.act).cfg]
    exact ht.ctl hplace
  have hburst : v.block.wte ≠ .none → t.block.wte ≠ .none → ∃ W' I', BurstAt W' I' v := by
    intro hn hnt
    rcases h.act.outcome with ⟨hw, -⟩ | ⟨-, hcall⟩
    · exact absurd hw hnt
    · cases hcall with
      | goesOn hcallv =>
        obtain ⟨cs, ds, hat, -⟩ := hcallv
        exact ⟨_, _, hat⟩
      | returns cs ds _ hat => exact ⟨_, _, hat⟩
      | givesUp _ hv => rw [hv] at hn; exact absurd rfl hn
  refine ⟨fun hplace => ?_, fun hafter => ?_⟩
  · rcases hplace with hw | hafter
    · rcases hm.fromTrigger hw with hwt | ⟨hwt, hlen, hes⟩
      · cases h.place with
        | between hnone => exact absurd (hnone.symm.trans hwt) (by simp)
        | calling _ hcall =>
          obtain ⟨cs, ds, hat, -⟩ := hcall
          exact hat.triggers (hcfgt ▸ hcfg) hwt h.act.act hw
      · exact hkeep hes hlen (.inl hwt)
    · obtain ⟨hplace, hlen, hes⟩ := hm.fromBurst hok hopt hafter
      exact hkeep hes hlen (hplace.imp_left And.left)
  · obtain ⟨⟨hwt, hwv⟩ | hat, -, -⟩ := hm.fromBurst hok hopt hafter
    · obtain ⟨W', I', hburst⟩ := hburst (by simp [hwv]) (by simp [hwt])
      exact hburst.rx_nil hwv
    · exact hacc.rx_nil (ht.rx hat)

end

end Sys2Proof.Machine

namespace Sys2Proof.Machine

/-! ## SEND and RECV -/

/-- A SEND of a buffer that no other agent writes meanwhile (R74), or a RECV. -/
inductive Transfer (s : State) : Instr → Prop
  | send (buf size : Word) (h : s.env.race = false) : Transfer s (.send buf size)
  | recv (buf size : Word) : Transfer s (.recv buf size)

/-- What a SEND or RECV puts on the link: the buffer, or as many bytes 0xFF (R121). -/
def transferImage (s : State) : Instr → List Byte
  | .send buf size => s.mem.bytes buf.toNat size.toNat
  | i => List.replicate i.size.toNat 0xFF

theorem Transfer.op {s : State} {i : Instr} (h : Transfer s i) : i.op = 0b000#3 ∨ i.op = 0b001#3 := by
  cases h with
  | send => exact .inl rfl
  | recv => exact .inr rfl

theorem length_bytes (m : Memory) (a n : Nat) : (m.bytes a n).length = n := by simp [Memory.bytes]

theorem getElem?_bytes (m : Memory) {a n x : Nat} (h : x < n) : (m.bytes a n)[x]? = some (m.read (a + x)) := by
  simp [Memory.bytes, h]

theorem length_transferImage (s : State) (i : Instr) : (transferImage s i).length = i.size.toNat := by
  cases i with
  | send buf size => exact length_bytes _ _ _
  | _ => simp [transferImage]

/-- Where a SEND or RECV stands (R125, R128), and the bytes it has exchanged. -/
inductive TransferAt (i : Instr) (s u : State) : Prop
  | moving (hc : u.block.cfl = .check ∨ u.block.cfl = .sendTop ∨ u.block.cfl = .recvTop)
      (h : RequestAt s.wireOut s.wireIn u)
  | moved (ds : List Byte) (hd : ds.length = i.size.toNat) (hc : u.block.cfl = .finish)
      (hlast : i.size ≠ 0 → u.block.blen.toNat = lastBurst i.size.toNat)
      (h : RequestAt (s.wireOut ++ transferImage s i) (s.wireIn ++ ds) u)

theorem TransferAt.busy {i : Instr} {s u : State} (h : TransferAt i s u) : u.busy = true := by
  rw [State.busy_iff]
  cases h with
  | moving hc => rcases hc with hc | hc | hc <;> simp [hc]
  | moved ds hd hc => simp [hc]

/-- Until its call returns a SEND or RECV has received nothing before the call. -/
theorem TransferAt.requestAt {i : Instr} {s u : State} (h : TransferAt i s u) :
    ∃ W I, RequestAt W I u ∧ (u.block.cfl ≠ .finish → I = s.wireIn) := by
  cases h with
  | moving _ h => exact ⟨_, _, h, fun _ => rfl⟩
  | moved ds _ hc _ h => exact ⟨_, _, h, fun hne => absurd hc hne⟩

/-- A SEND or RECV makes one call. -/
theorem TransferAt.call {i : Instr} {s u : State} (h : TransferAt i s u) (hcall : callOk u.block) :
    u.block.cfl = .sendTop ∨ u.block.cfl = .recvTop := by
  cases h with
  | moving hc => exact hc.resolve_left fun hc => by simp [callOk, hc] at hcall
  | moved _ _ hc => simp [callOk, hc] at hcall

/-- What every tick of a SEND or RECV keeps, from the state s it was made in. -/
structure TransferRun (i : Instr) (s u : State) : Prop where
  link : LinkRun i s u
  race : u.env.race = s.env.race
  plan : BurstPlan u.block
  trailing : Trailing u

/-- A SEND or RECV whose waits all succeeded has ended (R125, R128). -/
structure TransferEnd (i : Instr) (s t : State) : Prop where
  busy : t.busy = false
  status : t.block.status = .ok
  out : t.wireOut = s.wireOut ++ transferImage s i
  inn : ∃ ds : List Byte, ds.length = i.size.toNat ∧ t.wireIn = s.wireIn ++ ds
  settled : Settled t
  rx : i.size ≠ 0 → t.periph.rx = []
  fl : i.size ≠ 0 → (ctlFl t.periph.ctl).toNat = lastBurst i.size.toNat - 1
  xch : i.size ≠ 0 → t.periph.ctl &&& t.cfg.xchMask = t.cfg.xchMask

/-- A bound on the ticks left of a SEND or RECV. -/
def transferLeft (u : State) : Nat :=
  match u.block.cfl with
  | .check => 2 * u.periph.rx.length + 200 * u.block.size.toNat + 1002
  | .finish => 1
  | _ => if u.block.wte = .none then 2 * u.periph.rx.length + 200 * u.block.size.toNat + 1001 else 500 + callLeft u

/-- What one tick of a SEND or RECV leads to: it goes on, it has ended with all its waits succeeded, or a wait was
late. -/
inductive TransferStep (i : Instr) (s u v : State) : Prop
  | goesOn (hat : TransferAt i s v) (ht : Timed u → Timed v ∧ transferLeft v < transferLeft u)
  | ends (h : TransferEnd i s v)
  | late (hb : v.busy = false) (hs : v.block.status = .deviceNotResponding) (ht : ¬ Timed u)

section
variable {i : Instr} {s u t v : State} {W I : List Byte}

/-- CHECK enters the request's one call (R141). -/
theorem checkRequest_transfer (h : Transfer s i) (hi : i.wellFormed = true) (hr : RunsRequest i u.block) :
    ∃ c, (c = .sendTop ∨ c = .recvTop) ∧ checkRequest u = u.withBlock { u.block with cfl := c } := by
  have hgood : i.usesBuffer = true → badBuffer u.block.buf u.block.size = false := by
    intro hu; rw [hr.buf, hr.size, badBuffer_eq hu, hi]; rfl
  unfold checkRequest
  rw [hr.op, hr.buf, hr.size, decodeReq_fields]
  cases h with
  | send => exact ⟨_, .inl rfl, by simp only [checkBuffer, hgood rfl]; rfl⟩
  | recv => exact ⟨_, .inr rfl, by simp only [checkBuffer, hgood rfl]; rfl⟩

/-- Making the call shortens the request. -/
theorem transferStep_calls {b : Block} (h : RequestAt s.wireOut s.wireIn u) (hw : u.block.wte = .none)
    (hc : u.block.cfl = .sendTop ∨ u.block.cfl = .recvTop)
    (hb : b = { u.block with
      wDir := b.wDir, wSrc := b.wSrc, wBase := b.wBase, wSize := u.block.size, wOff := 0, wte := .top, phase := .start }) :
    TransferStep i s u (u.withBlock b) := by
  have hcfl : b.cfl = u.block.cfl := by rw [hb]
  have hwte : b.wte = .top := by rw [hb]
  have hoff : b.wOff = 0 := by rw [hb]
  have hsize : b.wSize = u.block.size := by rw [hb]
  have hphase : b.phase = .start := by rw [hb]
  refine .goesOn (.moving (.inr (by rw [State.withBlock_block, hcfl]; exact hc)) (h.withBlock hw (.inr ⟨hwte, hoff⟩)))
    fun ht => ⟨ht.withBlock hw (.inr ⟨hwte, hphase⟩), ?_⟩
  simp only [transferLeft, callLeft, burstLeft, State.withBlock_block, State.withBlock_periph, hcfl, hwte, hoff, hsize, hw]
  rcases hc with hc | hc <;> simp [hc] <;> omega

/-- CHECK, the making of the call, and the end (R125, R128). -/
theorem transferStep_own (hat : TransferAt i s u) (htr : Transfer s i) (hi : i.wellFormed = true)
    (hrun : TransferRun i s u) (hw : u.block.wte = .none) : TransferStep i s u (cflAct u) := by
  unfold cflAct
  cases hat with
  | moving hc h =>
    rcases hc with hc | hc | hc
    · obtain ⟨c, hcc, he⟩ := checkRequest_transfer htr hi hrun.link.runs
      simp only [hc, he]
      refine .goesOn (.moving (.inr hcc) (h.withBlock hw (.inl hw))) fun ht => ⟨ht.withBlock hw (.inl hw), ?_⟩
      rcases hcc with rfl | rfl <;> simp [transferLeft, hc, hw]
    · rw [hc]
      exact transferStep_calls h hw (.inl hc) rfl
    · rw [hc]
      exact transferStep_calls h hw (.inr hc) rfl
  | moved ds hd hc hlast h =>
    obtain ⟨hs, hl⟩ := h.idle hw
    have honly := endRequest_actOnly .ok u
    have hsize := hrun.link.runs.size
    have hafter : i.size ≠ 0 → AfterBurst u.block := fun hne => .inr (.inr ⟨hw, hc, by rw [hsize]; exact hne⟩)
    rw [hc]
    refine .ends ⟨rfl, rfl, honly.wireOut.trans hl.out, ⟨ds, hd, honly.wireIn.trans hl.inn⟩, hs,
      fun hne => hrun.trailing.rx (hafter hne), fun hne => ?_, fun hne => (hrun.trailing.ctl (.inr (hafter hne))).2⟩
    rw [← hlast hne]
    exact (hrun.trailing.ctl (.inr (hafter hne))).1

/-- A tick at which the call returns leaves no wait, and the RX words as they were. -/
theorem RequestTick.timed_returns (h : RequestTick i s W I u t v) (hw : t.block.wte = .top)
    (hv : v = t.withBlock { t.block with wte := .none, cfl := afterCall t.block.cfl }) (ht : Timed u) : Timed v := by
  obtain rfl := h.unmoved (by simp [← h.block, hw])
  subst hv
  exact ⟨ht.1, by simp, fun _ => ht.2.stale (.inr (.inl hw)), by simp, by simp⟩

/-- The call of a SEND or RECV is on its whole buffer (R125, R128). -/
theorem RunsRequest.wSize_eq {b : Block} (h : RunsRequest i b) (hn : b.wte ≠ .none)
    (hc : b.cfl = .sendTop ∨ b.cfl = .recvTop) : b.wSize = i.size := by
  have hcall := h.ok.callOk hn
  rw [← h.size]
  rcases hc with hc | hc
  · simp only [callOk, hc] at hcall; exact hcall.2.2.2
  · simp only [callOk, hc] at hcall; exact hcall.2.2.2

/-- The bytes that the call of a SEND or RECV has put on the link are its image (R121). -/
theorem CallSent.transferImage {cs ds : List Byte} (h : CallSent t cs ds) (htr : Transfer s i)
    (hrun : TransferRun i s t) (hn : t.block.wte ≠ .none) (hc : t.block.cfl = .sendTop ∨ t.block.cfl = .recvTop)
    (hall : t.block.wOff = t.block.wSize) : cs = Machine.transferImage s i := by
  have hcall := hrun.link.runs.ok.callOk hn
  have hreq := hrun.link.runs.ok.requestOk
  have hsize := hrun.link.runs.wSize_eq hn hc
  refine eq_of_getElem?_le ((h.lengths hall).1.trans (by rw [hsize, length_transferImage])) fun x b hx => ?_
  have hlt : x < i.size.toNat := by
    rw [← hsize, ← (h.lengths hall).1]
    exact (List.getElem?_eq_some_iff.mp hx).1
  have hsent := h.sent x b hx
  cases htr with
  | send buf size hrace =>
    have hc' : t.block.cfl = .sendTop := hc.resolve_right fun hc => by
      simp only [requestOk, hc, hrun.link.runs.op] at hreq
      exact absurd hreq.1 (by simp [Instr.op])
    simp only [callOk, hc'] at hcall
    obtain ⟨hd, hsrc, hbase, -⟩ := hcall
    simp only [SentByte, hd, hsrc] at hsent
    rw [Machine.transferImage, getElem?_bytes _ (n := size.toNat) hlt, hsent (hrun.race.trans hrace), hbase, hrun.link.runs.buf,
      hrun.link.mem (by simp [ReceivesBuffer, Instr.op])]
    rfl
  | recv buf size =>
    have hc' : t.block.cfl = .recvTop := hc.resolve_left fun hc => by
      simp only [requestOk, hc, hrun.link.runs.op] at hreq
      exact absurd hreq.1 (by simp [Instr.op])
    simp only [callOk, hc'] at hcall
    simp only [SentByte, hcall.1] at hsent
    rw [hsent]
    exact List.getElem?_replicate_of_lt hlt

/-- What a tick keeps of a SEND or RECV. -/
theorem RequestTick.transferRun (h : RequestTick i s W I u t v) (hcfg : s.cfg.wf = true) (htr : Transfer s i)
    (hb : u.busy = true) (hrun : TransferRun i s u) : TransferRun i s t ∧ TransferRun i s v := by
  have hbt : t.busy = true := by rw [State.busy, h.block]; exact hb
  obtain ⟨es, hm, -, -⟩ := act_acts hbt h.act.act
  have hrace := h.share.only.race.trans hrun.race
  have hplan : BurstPlan t.block := h.block ▸ hrun.plan
  exact ⟨⟨h.before, hrace, hplan, hrun.trailing.share h.share.only h.unmoved⟩,
    ⟨h.after, (act_actOnly h.act.act).race.trans hrace, hm.keeps_plan h.before.runs.ok hplan,
      h.trailing hcfg hb htr.op hrun.trailing⟩⟩

/-- A tick that goes on with the call shortens the request. -/
theorem transferLeft_of_callLeft (hc : u.block.cfl = .sendTop ∨ u.block.cfl = .recvTop) (hu : u.block.wte ≠ .none)
    (hcfl : v.block.cfl = u.block.cfl) (hv : v.block.wte ≠ .none) (h : callLeft v < callLeft u) :
    transferLeft v < transferLeft u := by
  unfold transferLeft
  rw [hcfl]
  rcases hc with hc | hc <;> simp [hc, hu, hv, h]

/-- One tick of a SEND or RECV. -/
theorem TransferAt.step (hat : TransferAt i s u) (hcfg : s.cfg.wf = true) (htr : Transfer s i)
    (hi : i.wellFormed = true) (hrun : TransferRun i s u) :
    ∃ v, tick u = .next v ∧ TransferRun i s v ∧ TransferStep i s u v := by
  have hb := hat.busy
  obtain ⟨W, I, hreq, -⟩ := hat.requestAt
  by_cases hw : u.block.wte = .none
  · obtain ⟨t, v, htick⟩ := hrun.link.tick hcfg hi hreq hb
    obtain rfl := htick.unmoved (by simp [hw])
    refine ⟨v, htick.tick, (htick.transferRun hcfg htr hb hrun).2, ?_⟩
    rcases htick.act.outcome with ⟨-, -, -, rfl⟩ | ⟨hn, -⟩
    · exact transferStep_own hat htr hi hrun hw
    · exact absurd hw hn
  · have hcallu := hrun.link.runs.ok.callOk hw
    have hc' := hat.call hcallu
    cases hat with
    | moved _ _ hc => simp [callOk, hc] at hcallu
    | moving hc h =>
      obtain ⟨t, v, htick⟩ := hrun.link.tick hcfg hi h hb
      obtain ⟨hrunt, hrunv⟩ := htick.transferRun hcfg htr hb hrun
      refine ⟨v, htick.tick, hrunv, ?_⟩
      have hblock := htick.block
      rcases htick.act.outcome with ⟨hnone, -⟩ | ⟨hn, hcall⟩
      · exact absurd (hblock ▸ hnone) hw
      cases hcall with
      | goesOn hcallv hnv hcfl ht =>
        have hcfl' := hcfl.trans (congrArg Block.cfl hblock)
        refine .goesOn (.moving (hcfl' ▸ hc) (.calling hnv hcallv)) fun htu => ?_
        obtain ⟨hv, hless⟩ := htick.timed_goesOn ht htu
        exact ⟨hv, transferLeft_of_callLeft hc' hw hcfl' hnv hless⟩
      | returns cs ds hwt hburst hsent hall hv =>
        have hct : t.block.cfl = .sendTop ∨ t.block.cfl = .recvTop := hblock ▸ hc'
        obtain rfl := hsent.transferImage htr hrunt hn hct hall
        have hsize := hrunt.link.runs.wSize_eq hn hct
        have hplan := hrunt.plan
        simp only [BurstPlan, hwt, hall, hsize] at hplan
        have hfin : v.block.cfl = .finish := by
          rw [hv]
          rcases hct with hc | hc <;> simp [hc, afterCall]
        refine .goesOn (.moved ds ((hsent.lengths hall).2.trans (by rw [hsize])) hfin ?_ ?_) fun htu =>
          ⟨htick.timed_returns hwt hv htu, ?_⟩
        · rw [hv]; exact hplan.2
        · subst hv
          exact requestAt_of_returns rfl hburst
        · have hone : transferLeft v = 1 := by simp [transferLeft, hfin]
          rw [hone]
          rcases hc' with hc | hc <;> simp [transferLeft, hc, hw] <;> omega
      | givesUp hg hv =>
        subst hv
        exact .late rfl rfl (htick.not_timed hn hg)

end

/-! ### The whole request -/

section
variable {i : Instr} {s u t v : State}

theorem transferRun_accept (i : Instr) (h : s.Ready) : TransferRun i s (accept i.op i.buf i.size s) :=
  ⟨linkRun_accept i h, by simp, by simp [BurstPlan], by simp [AfterBurst], by simp [AfterBurst]⟩

theorem transferAt_accept (i : Instr) (h : s.Ready) : TransferAt i s (accept i.op i.buf i.size s) :=
  .moving (.inl (by simp)) (requestAt_accept i h)

/-- What every tick of a SEND or RECV keeps: it runs, or it has ended, with all its waits succeeded or with a late one. -/
def TransferReaches (i : Instr) (s u : State) : Prop :=
  TransferAt i s u ∨ TransferEnd i s u ∨ u.busy = false ∧ u.block.status = .deviceNotResponding

theorem TransferReaches.tick (hcfg : s.cfg.wf = true) (htr : Transfer s i) (hi : i.wellFormed = true)
    (hrun : TransferRun i s u) (h : TransferReaches i s u) (hb : u.busy = true) (hv : tick u = .next v) :
    TransferRun i s v ∧ TransferReaches i s v := by
  rcases h with h | h | ⟨h, -⟩
  · obtain ⟨w, hw, hrunw, hstep⟩ := h.step hcfg htr hi hrun
    obtain rfl : v = w := Host.Outcome.next.inj (hv.symm.trans hw)
    refine ⟨hrunw, ?_⟩
    cases hstep with
    | goesOn hat => exact .inl hat
    | ends h => exact .inr (.inl h)
    | late hb hs => exact .inr (.inr ⟨hb, hs⟩)
  · rw [h.busy] at hb; cases hb
  · rw [h] at hb; cases hb

/-- A SEND or RECV that has ended OK is one whose waits all succeeded. -/
theorem exec_transfer (hready : s.Ready) (htr : Transfer s i) (hi : i.wellFormed = true) (h : exec i s = .next t)
    (hend : t.busy = false) (hst : t.block.status = .ok) : TransferRun i s t ∧ TransferEnd i s t := by
  rw [exec_of_idle _ ((State.busy_false_iff s).mpr hready.cflIdle)] at h
  obtain ⟨hrun, hat | hdone | ⟨-, hlate⟩⟩ := runTicks_keeps
    (fun u => TransferRun i s u ∧ TransferReaches i s u)
    (fun u v ⟨hrun, hu⟩ hb hv => hu.tick hready.cfgWf htr hi hrun hb hv) _ _ t
    ⟨transferRun_accept i hready, .inl (transferAt_accept i hready)⟩ h
  · rw [hat.busy] at hend; cases hend
  · exact ⟨hrun, hdone⟩
  · rw [hst] at hlate; cases hlate

/-- A timed SEND or RECV ends with its waits succeeded when the ticks left are spent. -/
theorem TransferAt.ends (hcfg : s.cfg.wf = true) (htr : Transfer s i) (hi : i.wellFormed = true) :
    ∀ (k : Nat) (u : State), TransferRun i s u → TransferAt i s u → Timed u → transferLeft u < k →
      ∃ t, runTicks k u = .next t ∧ TransferRun i s t ∧ TransferEnd i s t := by
  intro k
  induction k with
  | zero => intro u _ _ _ hk; omega
  | succ k ih =>
    intro u hrun hat ht hk
    obtain ⟨v, hv, hrunv, hstep⟩ := hat.step hcfg htr hi hrun
    rw [runTicks_busy k hat.busy, hv, andThen_next]
    cases hstep with
    | goesOn hatv hgo =>
      obtain ⟨htv, hless⟩ := hgo ht
      exact ih v hrunv hatv htv (by omega)
    | ends h => exact ⟨v, runTicks_idle k h.busy, hrunv, h⟩
    | late _ _ hlate => exact absurd ht hlate

/-- Under a healthy peripheral no wait of a SEND or RECV is late (R112, R211). -/
theorem exec_transfer_completes (hready : s.Ready) (hstale : s.staleFits) (hrx : s.periph.rx.length < 2 ^ 32)
    (hhealthy : s.healthy) (htr : Transfer s i) (hi : i.wellFormed = true) :
    ∃ t, exec i s = .next t ∧ TransferRun i s t ∧ TransferEnd i s t := by
  have htimed : Timed (accept i.op i.buf i.size s) := by
    refine ⟨by rw [State.healthy, accept_sched]; exact hhealthy, by simp, fun _ => ?_, by simp, by simp⟩
    rw [State.staleFits, accept_cfg, accept_rx]; exact hstale
  have hfuel : transferLeft (accept i.op i.buf i.size s) < tickFuel := by
    have hsize := i.size.isLt
    simp only [transferLeft, accept_block, accept_rx, tickFuel]
    omega
  rw [exec_of_idle _ ((State.busy_false_iff s).mpr hready.cflIdle)]
  exact TransferAt.ends hready.cfgWf htr hi tickFuel _ (transferRun_accept i hready) (transferAt_accept i hready)
    htimed hfuel

/-- FL and XCH as CTL reads back (R40, R126, R129). -/
theorem TransferEnd.ctlValue (h : TransferEnd i s t) (hcfg : t.cfg.wf = true) (hne : i.size ≠ 0) :
    (ctlFl (Machine.ctlValue t.cfg t.periph)).toNat = lastBurst i.size.toNat - 1
      ∧ Machine.ctlValue t.cfg t.periph &&& t.cfg.xchMask = t.cfg.xchMask := by
  rw [Machine.ctlValue, ctlFl_and_not_clear hcfg, and_not_clear_and_xch hcfg]
  exact ⟨h.fl hne, h.xch hne⟩

/-- A request that has ended OK is one the block runs (R173). -/
theorem wellFormed_of_ok (hready : s.Ready) (h : exec i s = .next t) (hend : t.busy = false)
    (hst : t.block.status = .ok) : i.wellFormed = true := by
  have hiff := (illegalExactlyWhenNotWellFormed i s t ((State.busy_false_iff s).mpr hready.cflIdle) hready.noReset h
    hend).1
  rw [hst] at hiff
  simpa using hiff

end

/-- Settles O20: the run of a SEND that ends OK leads to its end with all waits succeeded. -/
theorem sendThatEndsOkHasSentTheBuffer : Obligations.SendThatEndsOkHasSentTheBuffer := by
  intro s t buf size hready hrace h hend hst
  obtain ⟨hrun, hdone⟩ := exec_transfer hready (.send buf size hrace) (wellFormed_of_ok hready h hend hst) h hend hst
  exact ⟨hdone.out, hrun.link.mem (by simp [ReceivesBuffer, Instr.op]), hdone.settled.2, hdone.settled.1, hdone.rx⟩

/-- Settles O25: under a healthy peripheral no wait is late, so the run ends as O20 says. -/
theorem sendCompletes : Obligations.SendCompletes := by
  intro s buf size hready hstale hrx hhealthy hrace hi
  obtain ⟨t, ht, hrun, hdone⟩ := exec_transfer_completes hready hstale hrx hhealthy (.send buf size hrace) hi
  exact ⟨t, ht, hdone.busy, hdone.status, hdone.out, hrun.link.mem (by simp [ReceivesBuffer, Instr.op]),
    hdone.ctlValue (hrun.link.cfg ▸ hready.cfgWf)⟩

end Sys2Proof.Machine

namespace Sys2Proof.Machine

/-! ## The bytes that a RECV has stored -/

/-- Byte k of the RX word in hand is the byte that the link partner answered at its place in the burst (R65, R119). -/
theorem RxStage.received {W I : List Byte} {base u : State} {ws taken : List Word} {k : Fin 4}
    (h : RxStage W I base ws taken u) (hphase : u.block.phase = .byte k)
    (hx : burstPos u.block k < u.block.blen.toNat) :
    ∃ ds, u.wireIn = I ++ ds ∧ ds[burstPos u.block k]? = some (byteOf u.block.latch k) := by
  obtain ⟨l, hl⟩ := h.latch k hphase
  have hwj : l.length = u.block.wj.toNat := by
    have hcount := h.count
    rw [rxTaken, hphase, hl, List.length_append] at hcount
    simpa using hcount
  have hbyte : ∀ rs : List Word, (u.untake taken).periph.rx = base.periph.rx ++ rs →
      (laneBytes rs)[burstPos u.block k]? = some (byteOf u.block.latch k) := by
    intro rs hrs
    have hlt := k.isLt
    have hdiv : burstPos u.block k / 4 = l.length := by rw [hwj, burstPos]; omega
    have hmod : burstPos u.block k % 4 = k := by rw [burstPos]; omega
    rw [untake_periph, h.rxNone, List.nil_append] at hrs
    rw [← hrs, hl, getElem?_laneBytes (w := u.block.latch) (by rw [hdiv]; simp), hmod]
  rcases h.frame with ⟨i, hi, ins, rs, f, hsent, -, -, -, -, hins, -⟩ | ⟨ins, rs, hsent, -, -, hins⟩
  · refine ⟨ins, hsent.inn.trans (by rw [h.linked.inn]), ?_⟩
    have hb := hbyte rs hsent.rx
    rw [← hins, List.getElem?_append_left (List.getElem?_eq_some_iff.mp hb).1, hb]
  · refine ⟨ins, hsent.inn.trans (by rw [h.linked.inn]), ?_⟩
    rw [← hins, List.getElem?_take_of_lt hx, hbyte rs hsent.rx]

/-- The block stores a byte of the burst to the buffer (R24, R119). -/
structure Stores (u : State) (k : Fin 4) : Prop where
  wte : u.block.wte = .b7Rx
  phase : u.block.phase = .byte k
  inside : burstPos u.block k < u.block.blen.toNat
  src : u.block.wSrc = .buf

theorem BlockMove.writes {u : State} {b' : Block} {es : List Event} (hm : BlockMove u.block es b') :
    es.filterMap Event.writeAddr? = [] ∨ ∃ k, Stores u k := by
  rcases hm with ⟨-, hm⟩ | ⟨-, hm⟩
  · cases hm <;> exact .inl rfl
  · cases hm with
    | packs k es v hw hp hv => cases hv <;> exact .inl rfl
    | stores k es r hw hp hr =>
      cases hr with
      | toBuffer hx hs => exact .inr ⟨k, hw, hp, hx, hs⟩
      | toResp => exact .inl rfl
      | pastBurst => exact .inl rfl
    | _ => exact .inl rfl

/-- What an action does to memory: nothing, or the one store of B7 (R119). -/
theorem act_writes {u v : State} (hb : u.busy = true) (h : act u = .next v) :
    ∃ es, BlockMove u.block es v.block ∧ v.trace = u.trace ++ es
      ∧ (v.mem = u.mem ∧ es.filterMap Event.writeAddr? = []
        ∨ ∃ k, Stores u k
          ∧ v.mem = u.mem.write (u.block.wBase.toNat + (u.block.wOff.toNat + burstPos u.block k)) (byteOf u.block.latch k)
          ∧ es.filterMap Event.writeAddr? = [u.block.wBase.toNat + (u.block.wOff.toNat + burstPos u.block k)]) := by
  obtain ⟨es, hm, htrace, hacc⟩ := act_acts hb h
  refine ⟨es, hm, htrace, ?_⟩
  rcases hm.writes with hes | ⟨k, hstores⟩
  · refine .inl ⟨?_, hes⟩
    cases hacc with
    | quiet _ hmem => exact hmem
    | ctlWritten _ _ hmem => exact hmem
    | txdWritten _ _ _ hmem => exact hmem
    | rxdRead _ _ _ _ hmem => exact hmem
    | stored => cases hes
  · obtain ⟨hw, hp, hx, hs⟩ := id hstores
    refine .inr ⟨k, hstores, ?_⟩
    rw [act_eq_of_wte hw (by simp), wteAct, hw] at h
    simp only [rxWords, hp, unpackByte, hx, if_true] at h
    obtain ⟨t, ht, hv⟩ := andThen_eq_next.mp h
    cases hv
    rcases dstByte_next ht with ⟨-, hmem⟩ | ⟨hs', -⟩
    · obtain ⟨-, rfl⟩ := memWrite_next hmem
      rw [nextByte_eq k (nextWord_goWte .next _)] at htrace ⊢
      refine ⟨rfl, ?_⟩
      obtain rfl : es = [.memWrite _ (byteOf u.block.latch k)] := (List.append_cancel_left htrace).symm
      rfl
    · rw [hs] at hs'; cases hs'

theorem bytes_succ (m : Memory) (a k : Nat) : m.bytes a (k + 1) = m.bytes a k ++ [m.read (a + k)] := by
  simp [Memory.bytes, List.range_succ]

/-- A write past the first k bytes leaves them. -/
theorem bytes_write (m : Memory) (a k : Nat) (v : Byte) : Memory.bytes (m.write (a + k) v) a k = m.bytes a k := by
  refine List.map_congr_left fun j hj => Memory.read_write_ne m v ?_
  have hlt := List.mem_range.mp hj
  omega

/-- The first k bytes received since s have been stored, in order, from buf on, each once, and no other byte (R119,
R128). -/
structure RecvStored (buf : Word) (s u : State) (k : Nat) : Prop where
  received : ∃ ins, u.wireIn = s.wireIn ++ ins ∧ k ≤ ins.length ∧ u.mem.bytes buf.toNat k = ins.take k
  addrs : u.writeAddrs = s.writeAddrs ++ bufferAddrs buf k
  outside : ∀ a, a < buf.toNat ∨ buf.toNat + k ≤ a → u.mem.read a = s.mem.read a
  wf : u.mem.wf = true

theorem recvStored_zero {buf : Word} {s u : State} (hin : ∃ ins, u.wireIn = s.wireIn ++ ins)
    (hw : u.writeAddrs = s.writeAddrs) (hm : u.mem = s.mem) (hwf : s.mem.wf = true) : RecvStored buf s u 0 := by
  obtain ⟨ins, hin⟩ := hin
  exact ⟨⟨ins, hin, Nat.zero_le _, by simp [Memory.bytes]⟩, by simp [hw, bufferAddrs], fun a _ => by rw [hm], hm ▸ hwf⟩

section
variable {buf size : Word} {s u t v : State} {W I : List Byte} {k : Nat}

/-- Further bytes may arrive. -/
theorem RecvStored.more (h : RecvStored buf s u k) (hin : ∃ d, v.wireIn = u.wireIn ++ d)
    (hw : v.writeAddrs = u.writeAddrs) (hm : v.mem = u.mem) : RecvStored buf s v k := by
  obtain ⟨ins, hi, hk, hb⟩ := h.received
  obtain ⟨d, hd⟩ := hin
  refine ⟨⟨ins ++ d, by rw [hd, hi, List.append_assoc], by rw [List.length_append]; omega, ?_⟩, hw.trans h.addrs,
    fun a ha => hm ▸ h.outside a ha, hm ▸ h.wf⟩
  rw [hm, hb, List.take_append_of_le_length hk]

/-- The next byte received is stored in its place. -/
theorem RecvStored.store {x : Byte} (h : RecvStored buf s u k)
    (hx : ∃ ins, u.wireIn = s.wireIn ++ ins ∧ ins[k]? = some x) (hin : v.wireIn = u.wireIn)
    (hw : v.writeAddrs = u.writeAddrs ++ [buf.toNat + k]) (hm : v.mem = u.mem.write (buf.toNat + k) x)
    (ha : buf.toNat + k < 2 ^ 32) : RecvStored buf s v (k + 1) := by
  obtain ⟨ins, hi, hk, hb⟩ := h.received
  obtain ⟨ins', hi', hx⟩ := hx
  obtain rfl : ins' = ins := List.append_cancel_left (hi'.symm.trans hi)
  refine ⟨⟨ins', hin.trans hi, (List.getElem?_eq_some_iff.mp hx).1, ?_⟩, ?_, fun a hout => ?_, ?_⟩
  · rw [bytes_succ, hm, bytes_write, Memory.read_write_self _ _ _ h.wf, hb, List.take_add_one, hx]; rfl
  · rw [hw, h.addrs, bufferAddrs_succ, List.append_assoc]
  · rw [hm, Memory.read_write_ne _ _ (by omega)]
    exact h.outside a (by omega)
  · rw [hm]; exact Memory.write_wf _ _ _ h.wf ha

/-- The peripheral's share only takes bytes from the link. -/
theorem PeriphOnly.wireIn (h : PeriphOnly u t) : ∃ d, t.wireIn = u.wireIn ++ d := by
  obtain ⟨ws, hws, -⟩ := h.trace
  exact ⟨ws.filterMap Event.wireIn?, by rw [State.wireIn, hws, List.filterMap_append]; rfl⟩

/-- A RECV stands in its call while it stores. -/
theorem Stores.recvTop {j : Fin 4} (h : Stores t j) (hrun : RunsRequest (.recv buf size) t.block) :
    t.block.cfl = .recvTop ∧ t.block.wBase = buf := by
  have hcall := hrun.ok.callOk (by simp [h.wte])
  have hreq := hrun.ok.requestOk
  have hd := hrun.phase.2 j h.wte h.phase
  have hop : t.block.op = 0b001#3 := hrun.op
  have hbuf : t.block.buf = buf := hrun.buf
  cases hc : t.block.cfl with
  | recvTop =>
    simp only [callOk, hc] at hcall
    exact ⟨rfl, hcall.2.2.1.trans hbuf⟩
  | c53Pay =>
    simp only [requestOk, hc, hop] at hreq
    exact absurd hreq.1 (by simp)
  | _ => simp [callOk, hc, hd, h.src] at hcall

/-- The byte that a RECV stores is the one received at its place (R119, R128). -/
theorem RequestAt.received {j : Fin 4} (h : RequestAt W I t) (hs : Stores t j) :
    ∃ ds, t.wireIn = I ++ ds
      ∧ ds[t.block.wOff.toNat + burstPos t.block j]? = some (byteOf t.block.latch j) := by
  cases h with
  | between hw => exact absurd (hw.symm.trans hs.wte) (by simp)
  | calling _ hcall =>
    obtain ⟨cs, ds, hat, hsent⟩ := hcall
    cases hat with
    | rx _ base ws taken hstage =>
      obtain ⟨es, hin, hbyte⟩ := hstage.received hs.phase hs.inside
      refine ⟨ds ++ es, by rw [hin, List.append_assoc], ?_⟩
      rw [← hsent.lenIn, List.getElem?_append_right (by omega), Nat.add_sub_cancel_left]
      exact hbyte
    | before hw => rcases hw with hw | hw | hw <;> exact absurd (hw.symm.trans hs.wte) (by simp)
    | drain hw | txe hw | fl hw | words hw | trigOn hw | done hw => exact absurd (hw.symm.trans hs.wte) (by simp)

/-- What a RECV has stored after a tick, when it has come to its byte number k. -/
structure RecvReaches (buf size : Word) (s u : State) (k : Nat) : Prop where
  stored : RecvStored buf s u k
  inside : k ≤ size.toNat
  busy : u.busy = true → k = bufferMoved u.block
  ok : u.busy = false → u.block.status = .ok → k = size.toNat
  late : u.busy = false → u.block.status = .deviceNotResponding → u.block.wOff.toNat ≤ k

/-- The raise leaves the bursts completed where they are (R174, R176). -/
theorem BlockMove.wOff_of_late {b b' : Block} {es : List Event} (hm : BlockMove b es b') (hok : BlockOk b)
    (hp : PhaseOk b) (hb : b.cfl ≠ .idle) (hend : b'.cfl = .idle) (hst : b'.status = .deviceNotResponding) :
    b.wte ≠ .none ∧ b'.wOff = b.wOff := by
  rcases hm with ⟨-, hm⟩ | ⟨hn, hm⟩
  · cases hm with
    | ends st he =>
      rcases he with ⟨-, rfl⟩ | ⟨-, rfl⟩ | ⟨-, rfl⟩
      · cases hst
      · dsimp only at hst; split at hst <;> cases hst
      · cases hst
    | bufferChecked c hc hbad hop => rcases hop with ⟨-, rfl⟩ | ⟨-, rfl⟩ <;> cases hend
    | calls => exact absurd hend hb
    | _ => cases hend
  · refine ⟨hn, ?_⟩
    cases hm.callStep hok hp hn with
    | goesOn _ _ _ _ hcfl => exact absurd (hcfl.symm.trans hend) hb
    | returns _ _ hb' =>
      subst hb'
      exact absurd hend (callOk_afterCall (hok.callOk hn)).2
    | givesUp _ hb' => rw [hb']

/-- One tick of a RECV stores the next byte received, or none. -/
theorem RequestTick.recvStored (h : RequestTick (.recv buf size) s W I u t v) (hb : u.busy = true)
    (hI : u.block.cfl = .recvTop → I = s.wireIn) (hcfl : u.block.wte ≠ .none → u.block.cfl = .recvTop)
    (hst : RecvReaches buf size s u (bufferMoved u.block)) : ∃ k, RecvReaches buf size s v k := by
  have hblock := h.block
  have hbt : t.busy = true := by rw [State.busy, hblock]; exact hb
  have hrun := h.before.runs
  have hbusy := (State.busy_iff t).mp hbt
  have hstt : RecvStored buf s t (bufferMoved t.block) := by
    rw [hblock]
    exact hst.stored.more h.share.only.wireIn (h.share.only.filterMap_trace fun _ _ => rfl) h.share.only.mem
  obtain ⟨es, hm, htrace, hmem⟩ := act_writes hbt h.act.act
  obtain ⟨n, hstep⟩ := hm.bufferStep hrun.ok hrun.phase hbusy
  have hop : ¬ SendsBuffer t.block.op := by rw [hrun.op]; simp [SendsBuffer, Instr.op]
  have hrecv : ReceivesBuffer t.block.op := by rw [hrun.op]; exact .inl rfl
  have hsize : t.block.size = size := hrun.size
  have hwrites : v.writeAddrs = t.writeAddrs ++ es.filterMap Event.writeAddr? := by
    rw [State.writeAddrs, htrace, List.filterMap_append]; rfl
  have hin := (act_actOnly h.act.act).wireIn
  have hstored : RecvStored buf s v (bufferMoved t.block + n) := by
    rcases hmem with ⟨hmem, hes⟩ | ⟨j, hs, hmem, hes⟩
    · have hn : n = 0 := by
        cases hstep.access with
        | none => rfl
        | read hsend => exact absurd hsend hop
        | write _ _ hw => rw [hes] at hw; cases hw
      rw [hn]
      exact hstt.more ⟨[], by rw [hin, List.append_nil]⟩ (by rw [hwrites, hes, List.append_nil]) hmem
    · obtain ⟨hc, hbase⟩ := hs.recvTop hrun
      have hbuf : t.block.buf = buf := hrun.buf
      obtain ⟨rfl, haddr⟩ : n = 1 ∧ t.block.wOff.toNat + burstPos t.block j = bufferMoved t.block := by
        cases hstep.access with
        | none _ hw => rw [hes] at hw; cases hw
        | read hsend => exact absurd hsend hop
        | write _ _ hw =>
          rw [hes, hbase, hbuf] at hw
          exact ⟨rfl, Nat.add_left_cancel (List.singleton_inj.mp hw)⟩
      have hbyte := h.place.received hs
      rw [hI (hblock ▸ hc), haddr] at hbyte
      rw [hbase, haddr] at hmem hes
      have hlt : buf.toNat + bufferMoved t.block < 2 ^ 32 := by
        have hfits := hrun.ok.bufferCall_inside (by simp [hs.wte]) hs.src
        obtain ⟨⟨hpos, -, hle⟩, -⟩ := hrun.ok.burst (.inr hs.wte)
        have hpos' := hs.inside
        rw [hbase] at hfits
        omega
      exact hstt.store hbyte hin (by rw [hwrites, hes]) hmem hlt
  have hokv := hm.keeps_ok hrun.ok
  have hsizev : v.block.size = size := (act_actOnly h.act.act).size.trans hsize
  refine ⟨bufferMoved t.block + n, hstored, ?_, fun hbv => ?_, fun hbv hstv => ?_, fun hbv hstv => ?_⟩
  · cases hbv : v.busy with
    | true =>
      rw [← hstep.goesOn ((State.busy_iff v).mp hbv), ← hsizev]
      exact hokv.bufferMoved_le
    | false =>
      rw [(hstep.ends ((State.busy_false_iff v).mp hbv)).1, hblock]
      exact hst.inside
  · exact (hstep.goesOn ((State.busy_iff v).mp hbv)).symm
  · obtain ⟨rfl, hall⟩ := hstep.ends ((State.busy_false_iff v).mp hbv)
    rw [← hsize]
    exact hall hstv (.inr hrecv)
  · obtain ⟨hn, hoff⟩ := hm.wOff_of_late hrun.ok hrun.phase hbusy ((State.busy_false_iff v).mp hbv) hstv
    have hc := hcfl (hblock ▸ hn)
    rw [hoff, bufferMoved, hblock, hc]
    simp only [callMoved, if_neg (hblock ▸ hn)]
    omega

end

end Sys2Proof.Machine

namespace Sys2Proof.Machine

/-! ### The run of a RECV -/

/-- What every tick of a RECV keeps, from the state s it was made in. -/
structure RecvRun (buf size : Word) (s u : State) : Prop where
  transfer : TransferRun (.recv buf size) s u
  reaches : TransferReaches (.recv buf size) s u
  stored : ∃ k, RecvReaches buf size s u k

section
variable {buf size : Word} {s t u v : State}

theorem recvRun_accept (hready : s.Ready) (hwf : s.mem.wf = true) :
    RecvRun buf size s (accept (Instr.recv buf size).op buf size s) := by
  refine ⟨transferRun_accept (.recv buf size) hready, .inl (transferAt_accept (.recv buf size) hready), 0,
    recvStored_zero ⟨[], by simp [State.wireIn]⟩ (by simp [State.writeAddrs]) (by simp) hwf, Nat.zero_le _, ?_, ?_, ?_⟩
  · simp [bufferMoved]
  · simp
  · simp

theorem RecvRun.tick (hcfg : s.cfg.wf = true) (hi : (Instr.recv buf size).wellFormed = true)
    (h : RecvRun buf size s u) (hb : u.busy = true) (hv : tick u = .next v) : RecvRun buf size s v := by
  obtain ⟨hrunv, hreaches⟩ := h.reaches.tick hcfg (.recv buf size) hi h.transfer hb hv
  refine ⟨hrunv, hreaches, ?_⟩
  obtain ⟨k, hk⟩ := h.stored
  obtain rfl := hk.busy hb
  rcases h.reaches with hat | hdone | ⟨hidle, -⟩
  · obtain ⟨W, I, hreq, hI⟩ := hat.requestAt
    obtain ⟨t, w, htick⟩ := h.transfer.link.tick hcfg hi hreq hb
    obtain rfl : v = w := Host.Outcome.next.inj (hv.symm.trans htick.tick)
    refine htick.recvStored hb (fun hc => hI (by simp [hc])) (fun hn => ?_) hk
    refine (hat.call (h.transfer.link.runs.ok.callOk hn)).resolve_left fun hc => ?_
    have hop := h.transfer.link.runs.ok.requestOk
    simp only [requestOk, hc, h.transfer.link.runs.op] at hop
    exact absurd hop.1 (by simp [Instr.op])
  · rw [hdone.busy] at hb; cases hb
  · rw [hidle] at hb; cases hb

/-- A RECV that the block runs keeps all that its ticks keep. -/
theorem exec_recv (hready : s.Ready) (hwf : s.mem.wf = true) (hi : (Instr.recv buf size).wellFormed = true)
    (h : exec (.recv buf size) s = .next t) : RecvRun buf size s t := by
  rw [exec_of_idle _ ((State.busy_false_iff s).mpr hready.cflIdle)] at h
  exact runTicks_keeps (RecvRun buf size s) (fun u v hu hb hv => hu.tick hready.cfgWf hi hb hv) _ _ t
    (recvRun_accept hready hwf) h

/-- A RECV that has ended OK has all the bytes received in its buffer (R121, R128). -/
theorem RecvRun.wireIn_of_ok (h : RecvRun buf size s t) (hdone : TransferEnd (.recv buf size) s t) :
    t.wireIn = s.wireIn ++ t.mem.bytes buf.toNat size.toNat := by
  obtain ⟨k, hk⟩ := h.stored
  obtain rfl := hk.ok hdone.busy hdone.status
  obtain ⟨ins, hin, -, hbytes⟩ := hk.stored.received
  obtain ⟨ds, hlen, hds⟩ := hdone.inn
  obtain rfl : ds = ins := List.append_cancel_left (hds.symm.trans hin)
  rw [hin, hbytes, List.take_of_length_le (by exact hlen.le)]

end

/-- Settles O21: the run of a RECV that ends OK leads to its end with all waits succeeded, and stores as it receives. -/
theorem recvThatEndsOkHasStoredTheReceivedBytes : Obligations.RecvThatEndsOkHasStoredTheReceivedBytes := by
  intro s t buf size hready hwf h hend hst
  have hi := wellFormed_of_ok hready h hend hst
  have hrun := exec_recv hready hwf hi h
  obtain ⟨-, hdone⟩ := exec_transfer hready (.recv buf size) hi h hend hst
  exact ⟨hdone.out, hrun.wireIn_of_ok hdone,
    fun a ha => receivingRequestsKeepMemoryOutsideTheBuffer _ s t buf size (.inl rfl) h
      ((State.busy_false_iff s).mpr hready.cflIdle) a ha,
    hdone.settled.2, hdone.settled.1, hdone.rx⟩

/-- Settles O26: under a healthy peripheral no wait is late, so the run ends as O21 says. -/
theorem recvCompletes : Obligations.RecvCompletes := by
  intro s buf size hready hstale hrx hhealthy hwf hi
  obtain ⟨t, ht, hrun, hdone⟩ := exec_transfer_completes hready hstale hrx hhealthy (.recv buf size) hi
  exact ⟨t, ht, hdone.busy, hdone.status, hdone.out, (exec_recv hready hwf hi ht).wireIn_of_ok hdone,
    hdone.ctlValue (hrun.link.cfg ▸ hready.cfgWf)⟩

/-- Settles O55: what a RECV has stored is kept by every tick; one that CHECK refuses has received and stored nothing. -/
theorem recvHasStoredAFirstPartOfTheReceivedBytes : Obligations.RecvHasStoredAFirstPartOfTheReceivedBytes := by
  intro s t buf size hready hwf h
  cases hi : (Instr.recv buf size).wellFormed with
  | true =>
    obtain ⟨-, -, k, hk⟩ := exec_recv hready hwf hi h
    obtain ⟨ins, hin, hlen, hbytes⟩ := hk.stored.received
    exact ⟨k, ins, hk.inside, hlen, hin, hbytes, hk.stored.addrs, hk.stored.outside, hk.late⟩
  | false =>
    rw [illegalRequestsLeaveThePeripheralToItself _ s hi ((State.busy_false_iff s).mpr hready.cflIdle) hready.noReset,
      breathe_of_no_frame (by exact hready.frameNone), andThen_next] at h
    cases h
    refine ⟨0, [], Nat.zero_le _, le_rfl, ?_, rfl, ?_, fun _ _ => rfl, fun _ hst => by cases hst⟩
    · exact (endRequest_actOnly _ _).wireIn.trans (List.append_nil _).symm
    · simp [State.writeAddrs, Event.writeAddr?]

end Sys2Proof.Machine

namespace Sys2Proof.Machine

/-! ## The parts of a split -/

theorem sum_splitLens (m n : Nat) : (splitLens m n).sum = n := by
  have hsum := Nat.div_add_mod' n m
  unfold splitLens
  split
  · simp; omega
  · simpa using hsum

theorem mem_splitLens {m n x : Nat} (hm : 0 < m) (hx : x ∈ splitLens m n) : 1 ≤ x ∧ x ≤ m := by
  have hlt := Nat.mod_lt n hm
  rcases List.mem_append.mp hx with hx | hx
  · obtain rfl := (List.mem_replicate.mp hx).2
    exact ⟨hm, le_rfl⟩
  · split at hx
    · cases hx
    · obtain rfl := List.mem_singleton.mp hx
      exact ⟨by omega, hlt.le⟩

/-- The parts are ceil(n/m) in number. -/
theorem length_splitLens {m : Nat} (n : Nat) (hm : 0 < m) : (splitLens m n).length = (n + (m - 1)) / m := by
  have hlt := Nat.mod_lt n hm
  have hceil : (n + (m - 1)) / m = (n % m + (m - 1)) / m + n / m := by
    rw [← Nat.add_mul_div_left _ _ hm]
    congr 1
    have hdiv := Nat.div_add_mod n m
    omega
  rw [hceil, splitLens, List.length_append, List.length_replicate, Nat.add_comm]
  congr 1
  split
  · rename_i h0
    rw [h0, Nat.zero_add, Nat.div_eq_of_lt (by omega)]; rfl
  · rw [show n % m + (m - 1) = n % m - 1 + m by omega, Nat.add_div_right _ hm, Nat.div_eq_of_lt (by omega)]; rfl

/-- Settles O51: a split is whole parts and the rest, if any is left. -/
theorem splitsPartitionTheBytes : Obligations.SplitsPartitionTheBytes := fun n =>
  ⟨sum_splitLens _ n, fun _ => mem_splitLens (by decide), length_splitLens n (by decide), sum_splitLens _ n,
    fun _ => mem_splitLens (by decide), length_splitLens n (by decide)⟩

end Sys2Proof.Machine

namespace Sys2Proof.Machine

/-! ## One poll of a wait -/

/-- Where a wait that holds leaves the registers (R116, R117, R119). -/
structure WaitOver (b b' : Block) : Prop where
  cfl : b'.cfl = b.cfl
  polls : b'.polls = b.polls
  txe : b.wte = .b3Txe → b'.wte = .b4Fl
  word : b.wte ≠ .b3Txe → b'.wte = b.wte ∧ b'.phase ≠ .start ∧ b'.phase ≠ .giveUp
  rx : b.wte = .b7Rx → b'.phase = .last

section
variable {u : State}

theorem beginTxWord_over (hw : u.block.wte = .b5Words) :
    ∃ b, beginTxWord (readSta u).2 = (readSta u).2.withBlock b ∧ WaitOver u.block b := by
  cases hd : u.block.wDir with
  | send =>
    exact ⟨_, beginTxWord_of_send hd, rfl, rfl, by simp [hw], fun _ => ⟨rfl, by simp, by simp⟩, by simp [hw]⟩
  | receive =>
    exact ⟨_, beginTxWord_of_receive hd, rfl, rfl, by simp [hw], fun _ => ⟨rfl, by simp, by simp⟩, by simp [hw]⟩

/-- At its first action a wait polls STA for the condition that it waits for (R101, R112). -/
theorem act_of_wait (hcfg : u.cfg.wf = true) (hp : u.block.phase = .start)
    (hw : u.block.wte = .b3Txe ∨ u.block.wte = .b5Words ∨ u.block.wte = .b7Rx) :
    ∃ (t : StaTest) (onHold : State → State) (b : Block), act u = waitPoll t onHold u
      ∧ (t.holds u.cfg (readSta u).1 = true ↔ waitHolds u)
      ∧ onHold (readSta u).2 = (readSta u).2.withBlock b ∧ WaitOver u.block b := by
  obtain ⟨htxe, htxf, hrxe⟩ :=
    staTestsSayWhatTheFifosHold u.cfg u.periph (drawStaOther u).1 hcfg
  rcases hw with hw | hw | hw
  · refine ⟨.txe, goWte .b4Fl, _, ?_, ?_, rfl, rfl, rfl, fun _ => rfl, fun hne => absurd hw hne, fun h => ?_⟩
    · rw [act_eq_of_wte hw (by simp), wteAct, hw]
      exact waitTxe_of_poll (by simp [hp])
    · rw [show (readSta u).1 = staValue u.cfg u.periph (drawStaOther u).1 from rfl, htxe]
      simp [waitHolds, hw]
    · exact absurd (hw.symm.trans h) (by simp)
  · obtain ⟨b, hb, hover⟩ := beginTxWord_over hw
    refine ⟨.notTxf, beginTxWord, b, ?_, ?_, hb, hover⟩
    · rw [act_eq_of_wte hw (by simp), wteAct, hw]
      simp only [txWords, hp]
    · rw [show (readSta u).1 = staValue u.cfg u.periph (drawStaOther u).1 from rfl, htxf]
      simp [waitHolds, hw]
  · refine ⟨.notRxe, goPhase .last, _, act_rxPoll hw hp, ?_, rfl, rfl, rfl, fun h => ?_, fun _ => ?_, fun _ => rfl⟩
    · rw [show (readSta u).1 = staValue u.cfg u.periph (drawStaOther u).1 from rfl, hrxe]
      simp [waitHolds, hw]
    · exact absurd (hw.symm.trans h) (by simp)
    · exact ⟨rfl, by simp, by simp⟩

theorem act_of_wait_holds (hcfg : u.cfg.wf = true) (hp : u.block.phase = .start)
    (hw : u.block.wte = .b3Txe ∨ u.block.wte = .b5Words ∨ u.block.wte = .b7Rx) (h : waitHolds u) :
    ∃ b, act u = .next ((readSta u).2.withBlock b) ∧ WaitOver u.block b := by
  obtain ⟨t, onHold, b, hact, hiff, hb, hover⟩ := act_of_wait hcfg hp hw
  exact ⟨b, by rw [hact, waitPoll_of_holds _ (hiff.mpr h), hb], hover⟩

theorem act_of_wait_fails (hcfg : u.cfg.wf = true) (hp : u.block.phase = .start)
    (hw : u.block.wte = .b3Txe ∨ u.block.wte = .b5Words ∨ u.block.wte = .b7Rx) (h : ¬ waitHolds u) :
    act u = .next (pollFailed u) := by
  obtain ⟨t, onHold, b, hact, hiff, -, -⟩ := act_of_wait hcfg hp hw
  rw [hact, waitPoll_of_fails _ (eq_false_of_ne_true fun hold => h (hiff.mp hold))]

/-- A wait or drain whose budget is spent raises DEVICE_NOT_RESPONDING (R112, R115, R174). -/
theorem act_of_giveUp (hp : u.block.phase = .giveUp)
    (hw : u.block.wte = .b2Drain ∨ u.block.wte = .b3Txe ∨ u.block.wte = .b5Words ∨ u.block.wte = .b7Rx) :
    act u = .next (endRequest .deviceNotResponding u) := by
  rcases hw with hw | hw | hw | hw <;> rw [act_eq_of_wte hw (by simp), wteAct, hw]
  · simp only [drain, hp]; rfl
  · simp only [waitTxe, hp]; rfl
  · simp only [txWords, hp]; rfl
  · simp only [rxWords, hp]; rfl

/-- The polls are spent exactly when POLL_LIMIT is a number that they have come to (R112). -/
theorem pollsSpent_iff (c : Config) (p : Word) :
    pollsSpent c p = true ↔ ∃ n, c.pollLimit = some n ∧ n ≤ p.toNat := by
  unfold pollsSpent
  cases c.pollLimit <;> simp

end

/-- Settles O59: the poll is the action after the peripheral's share, and so is the raise. -/
theorem eachPollOfAWaitReadsStaOnce : Obligations.EachPollOfAWaitReadsStaOnce := by
  intro s u hb hcfg hr hu
  have honly := breathe_periphOnly hu
  have hblock := honly.block
  have hcfgu : u.cfg = s.cfg := honly.cfg
  have htick : tick s = act u := by rw [tick_of_no_reset hr, hu, andThen_next]
  rw [← hblock, ← hcfgu, htick]
  rw [← hcfgu] at hcfg
  have hcfl : u.block.cfl ≠ .idle := by rw [hblock]; exact (State.busy_iff s).mp hb
  refine ⟨fun hp hw => ?_, act_of_giveUp⟩
  by_cases hold : waitHolds u
  · obtain ⟨b, hact, hover⟩ := act_of_wait_holds hcfg hp hw hold
    refine ⟨_, _, hact, (State.busy_iff _).mpr ?_, rfl, fun _ => ⟨hover.polls, hover.txe, hover.word⟩,
      fun hn => absurd hold hn⟩
    rw [State.withBlock_block, hover.cfl]; exact hcfl
  · refine ⟨_, _, act_of_wait_fails hcfg hp hw hold, (State.busy_iff _).mpr hcfl, rfl, fun hh => absurd hh hold,
      fun _ => ⟨rfl, rfl, fun hspent => ?_, fun hleft => ?_⟩⟩
    · exact pollFailed_phase_of_spent ((pollsSpent_iff _ _).mpr hspent)
    · exact (pollFailed_phase_of_left (eq_false_of_ne_true fun h => hleft ((pollsSpent_iff _ _).mp h))).trans hp

end Sys2Proof.Machine

namespace Sys2Proof.Machine

/-! ## Waits, poll by poll -/

section
variable {s u : State}

theorem mmioEvents_readSta (u : State) (b : Block) :
    ((readSta u).2.withBlock b).mmioEvents = u.mmioEvents ++ [.mmioRead .sta (readSta u).1] := by
  simp [State.mmioEvents, readSta, drawStaOther, Event.mmio?]

/-- With no frame running a wait that does not hold polls until its budget is spent, and then raises (R112, R174). -/
theorem runTicks_of_wait_fails {n : Nat} (hlim : s.cfg.pollLimit = some n) :
    ∀ (m : Nat) (u : State), u.cfg = s.cfg → u.busy = true → u.cfg.wf = true → u.env.resets = [] →
      u.periph.frame = none → u.block.phase = .start →
      u.block.wte = .b3Txe ∨ u.block.wte = .b5Words ∨ u.block.wte = .b7Rx → ¬ waitHolds u →
      u.block.polls.toNat + (m + 1) = n →
      ∃ (t : State) (es : List Event), runTicks (m + 2) u = .next t ∧ t.busy = false
        ∧ t.block.status = .deviceNotResponding ∧ t.block.polls.toNat = n
        ∧ t.trace = u.trace ++ es ++ [.complete .deviceNotResponding]
        ∧ es.length = m + 1 ∧ ∀ e ∈ es, ∃ v, e = .mmioRead .sta v := by
  intro m
  induction m with
  | zero =>
    intro u hc hb hcfg hr hf hp hw hfail hpolls
    have hlt := (Config.wf_poll hcfg (hc ▸ hlim)).2
    have hsucc := toNat_succ_of_lt (x := u.block.polls) (n := n) (by omega) hlt
    have hspent : pollsSpent u.cfg (u.block.polls + 1) = true :=
      (pollsSpent_iff _ _).mpr ⟨n, hc ▸ hlim, by omega⟩
    have htick : tick u = .next (pollFailed u) := by
      rw [tick_of_no_reset hr, breathe_of_no_frame hf, andThen_next, act_of_wait_fails hcfg hp hw hfail]
    have htick' : tick (pollFailed u) = .next (endRequest .deviceNotResponding (pollFailed u)) := by
      rw [tick_of_no_reset (by exact hr), breathe_of_no_frame (by exact hf), andThen_next,
        act_of_giveUp (pollFailed_phase_of_spent hspent) (.inr hw)]
    refine ⟨endRequest .deviceNotResponding (pollFailed u), [.mmioRead .sta (readSta u).1], ?_, endRequest_busy _ _, rfl,
      ?_, rfl, rfl, by simp⟩
    · rw [runTicks_busy _ hb, htick, andThen_next, runTicks_busy _ (by exact hb), htick', andThen_next]; rfl
    · change (u.block.polls + 1).toNat = n; omega
  | succ m ih =>
    intro u hc hb hcfg hr hf hp hw hfail hpolls
    have hlt := (Config.wf_poll hcfg (hc ▸ hlim)).2
    have hsucc := toNat_succ_of_lt (x := u.block.polls) (n := n) (by omega) hlt
    have hleft : pollsSpent u.cfg (u.block.polls + 1) = false := pollsSpent_eq_false fun k hk => by
      obtain rfl : n = k := Option.some.inj (hlim.symm.trans (hc ▸ hk))
      omega
    have htick : tick u = .next (pollFailed u) := by
      rw [tick_of_no_reset hr, breathe_of_no_frame hf, andThen_next, act_of_wait_fails hcfg hp hw hfail]
    obtain ⟨t, es, ht, hbt, hst, hpt, htrace, hlen, hes⟩ := ih (pollFailed u) hc hb hcfg hr hf
      ((pollFailed_phase_of_left hleft).trans hp) hw hfail (by
        change (u.block.polls + 1).toNat + (m + 1) = n; omega)
    refine ⟨t, .mmioRead .sta (readSta u).1 :: es, ?_, hbt, hst, hpt, ?_, by simp [hlen], ?_⟩
    · rw [runTicks_busy _ hb, htick, andThen_next, ht]
    · rw [htrace, show (pollFailed u).trace = u.trace ++ [.mmioRead .sta (readSta u).1] from rfl]; simp
    · intro e he
      rcases List.mem_cons.mp he with rfl | he
      · exact ⟨_, rfl⟩
      · exact hes e he

/-! ### A frame that ends its word -/

/-- A byte inside a word, disturbed or not. -/
theorem frameExchange_wordGoesOn {f : Frame} (hn : f.i + 1 ≠ f.n) (h3 : f.i % 4 ≠ 3) :
    ∃ a t, frameExchange f u = .next t
      ∧ t.periph = { u.periph with frame := some { f with i := f.i + 1, rx := a } } := by
  simp only [frameExchange, if_neg hn, if_neg h3]
  refine ⟨setByte f.rx (f.i % 4) (exchange (byteOf f.word (f.i % 4)) u).1.2, _, rfl, ?_⟩
  simp [setFrame, (exchange_same (byteOf f.word (f.i % 4)) u).periph]

/-- The last byte of a word, disturbed or not, with room in the RX FIFO. -/
theorem frameExchange_wordDone {f : Frame} (hroom : u.periph.rx.length < u.cfg.rxDepth)
    (hend : f.i + 1 = f.n ∨ f.i % 4 = 3) :
    ∃ a t, frameExchange f u = .next t ∧ t.periph.rx = u.periph.rx ++ [a] := by
  have hx := exchange_same (byteOf f.word (f.i % 4)) u
  have hdone : ∀ (e : Event) (a : Word), frameWordDone a ((exchange (byteOf f.word (f.i % 4)) u).2.log e)
      = .next (((exchange (byteOf f.word (f.i % 4)) u).2.log e).withPeriph
          { u.periph with tx := u.periph.tx.tail, rx := u.periph.rx ++ [a] }) := by
    intro e a
    have hfull : ¬ u.cfg.rxDepth ≤ u.periph.rx.length := Nat.not_le.mpr hroom
    simp [frameWordDone, rxFull, hx.cfg, hx.periph, hfull]
  simp only [frameExchange, hdone, andThen_next]
  by_cases hn : f.i + 1 = f.n
  · rw [if_pos hn]
    exact ⟨_, _, rfl, rfl⟩
  · rw [if_neg hn, if_pos (hend.resolve_left hn)]
    exact ⟨_, _, rfl, rfl⟩

/-- A byte of a frame is exchanged from its words once they are loaded. -/
theorem frameByte_of_word {f : Frame} (htx : f.i % 4 = 0 → u.periph.tx ≠ []) :
    ∃ w a u', SameButTapes u u' ∧ frameByte f u = frameExchange { f with word := w, rx := a } u' := by
  by_cases h0 : f.i % 4 = 0
  · obtain ⟨w, l, hl⟩ := List.exists_cons_of_ne_nil (htx h0)
    obtain ⟨a, u', hsame, -, he⟩ := frameByte_loaded (f := f) (fun _ => ⟨l, hl⟩) fun hne => absurd h0 hne
    exact ⟨w, a, u', hsame, he⟩
  · obtain ⟨a, u', hsame, -, he⟩ := frameByte_loaded (f := f) (u := u) (fun h => absurd h h0) fun _ => rfl
    exact ⟨_, a, u', hsame, he⟩

/-- The bytes left of a word take a frame to the end of it, and the RX FIFO gets the word. -/
theorem periphRun_wordDone : ∀ (d : Nat) (u : State) (f : Frame), u.periph.frame = some f → f.i < f.n →
    (f.i % 4 = 0 → u.periph.tx ≠ []) → u.periph.rx.length < u.cfg.rxDepth →
    d = min (4 - f.i % 4) (f.n - f.i) →
    ∃ t, periphRun d u = .next t ∧ t.periph.rx.length = u.periph.rx.length + 1 := by
  intro d
  induction d with
  | zero => intro u f _ hi _ _ hd; omega
  | succ d ih =>
    intro u f hf hi htx hroom hd
    obtain ⟨w, a, u', hsame, he⟩ := frameByte_of_word htx
    unfold periphRun
    rw [hf]
    simp only [he]
    by_cases hend : f.i + 1 = f.n ∨ f.i % 4 = 3
    · obtain ⟨x, t, ht, hrx⟩ := frameExchange_wordDone (f := { f with word := w, rx := a })
        (by rw [hsame.periph, hsame.cfg]; exact hroom) hend
      obtain rfl : d = 0 := by rcases hend with hend | hend <;> omega
      exact ⟨t, by rw [ht]; rfl, by rw [hrx, hsame.periph, List.length_append]; rfl⟩
    · rw [not_or] at hend
      obtain ⟨x, v, hv, hp⟩ := frameExchange_wordGoesOn (u := u') (f := { f with word := w, rx := a }) hend.1 hend.2
      have hcfg := (frameExchange_periphOnly hv).cfg
      obtain ⟨t, ht, hrx⟩ := ih v _ (by rw [hp]) (by dsimp only; omega) (fun h0 => by dsimp only at h0; omega)
        (by rw [hp, hcfg, hsame.periph, hsame.cfg]; exact hroom) (by dsimp only; omega)
      exact ⟨t, by rw [hv, andThen_next, ht], by rw [hrx, hp, hsame.periph]⟩

/-- The peripheral's share is as many steps as the pace lists next. -/
theorem breathe_of_sched {k : Nat} {l : List Nat} {f : Frame} (hf : u.periph.frame = some f)
    (hs : u.env.sched.items = k :: l) :
    ∃ t, breathe u = periphRun k t ∧ SameButTapes u t ∧ t.env.sched.items = l := by
  have hdraw : (drawSched u).1 = k ∧ (drawSched u).2.env.sched.items = l := by
    unfold drawSched Tape.draw
    rw [hs]
    exact ⟨rfl, rfl⟩
  refine ⟨(drawSched u).2, ?_, drawSched_same u, hdraw.2⟩
  unfold breathe
  rw [hf]
  simp only [hdraw.1]

/-- A wait for an RX word that the peripheral brings before its poll number f + 1 fails f times, and then holds. -/
theorem runTicks_of_late_word {fr : Frame} {more : List Nat} : ∀ (f : Nat) (u : State), u.busy = true →
    u.cfg.wf = true → u.env.resets = [] → u.block.phase = .start → u.block.wte = .b7Rx → u.periph.rx = [] →
    u.periph.frame = some fr → fr.i < fr.n → u.periph.tx ≠ [] →
    u.env.sched.items = List.replicate f 0 ++ min (4 - fr.i % 4) (fr.n - fr.i) :: more →
    u.block.polls.toNat + f < 2 ^ 32 → (∀ n, u.cfg.pollLimit = some n → u.block.polls.toNat + f < n) →
    ∃ (t : State) (vs : List Word), runTicks (f + 1) u = .next t ∧ t.busy = true
      ∧ t.block.wte = .b7Rx ∧ t.block.phase = .last ∧ t.block.polls.toNat = u.block.polls.toNat + f
      ∧ t.periph.rx.length = 1 ∧ vs.length = f + 1
      ∧ t.mmioEvents = u.mmioEvents ++ vs.map (Event.mmioRead .sta) := by
  intro f
  induction f with
  | zero =>
    intro u hb hcfg hr hp hw hrx hf hi htx hs hwrap hlim
    obtain ⟨d, hd, hsame, -⟩ := breathe_of_sched hf hs
    have hdepth := (Config.wf_depths hcfg).2
    obtain ⟨v, hv, hlen⟩ := periphRun_wordDone _ d fr (by rw [hsame.periph]; exact hf) hi
      (fun _ => by rw [hsame.periph]; exact htx) (by rw [hsame.periph, hsame.cfg, hrx]; simp; omega) rfl
    rw [hsame.periph, hrx] at hlen
    have honly := breathe_periphOnly (hd.trans hv)
    have hword : waitHolds v := by
      simp only [waitHolds, honly.block, hw]
      intro hnil
      rw [hnil] at hlen; cases hlen
    obtain ⟨b, hact, hover⟩ := act_of_wait_holds (honly.cfg ▸ hcfg) (honly.block ▸ hp)
      (by rw [honly.block]; exact .inr (.inr hw)) hword
    rw [honly.block] at hover
    refine ⟨(readSta v).2.withBlock b, [(readSta v).1], ?_, (State.busy_iff _).mpr ?_, ?_, hover.rx hw, ?_, hlen, rfl, ?_⟩
    · rw [runTicks_busy _ hb, tick_of_no_reset hr, hd, hv, andThen_next, hact, andThen_next]; rfl
    · rw [State.withBlock_block, hover.cfl]; exact (State.busy_iff u).mp hb
    · exact (hover.word (by simp [hw])).1.trans hw
    · rw [State.withBlock_block, hover.polls]; rfl
    · rw [mmioEvents_readSta, State.mmioEvents, honly.filterMap_trace fun _ _ => rfl]; rfl
  | succ f ih =>
    intro u hb hcfg hr hp hw hrx hf hi htx hs hwrap hlim
    obtain ⟨v, hv, hsame, hsv⟩ := breathe_of_sched hf hs
    have hblock := hsame.block
    have hsucc := toNat_succ_of_lt (x := v.block.polls) (n := u.block.polls.toNat + 1) (by rw [hblock]; omega) (by omega)
    have hpolls : (pollFailed v).block.polls.toNat = u.block.polls.toNat + 1 := by rw [← hblock]; exact hsucc
    have hfail : ¬ waitHolds v := by simp [waitHolds, hblock, hw, hsame.periph, hrx]
    have hleft : pollsSpent v.cfg (v.block.polls + 1) = false := pollsSpent_eq_false fun n hn => by
      have hlt := hlim n (hsame.cfg ▸ hn)
      rw [hblock] at hsucc ⊢; omega
    have htick : tick u = .next (pollFailed v) := by
      rw [tick_of_no_reset hr, hv]
      exact act_of_wait_fails (hsame.cfg ▸ hcfg) (hblock ▸ hp) (by rw [hblock]; exact .inr (.inr hw)) hfail
    have hbusy : (pollFailed v).busy = true := by
      rw [State.busy_iff]
      exact fun hc => (State.busy_iff u).mp hb (by rw [← hblock]; exact hc)
    obtain ⟨t, vs, ht, hbt, hwt, hpt, hpollst, hrxt, hlen, hmmio⟩ := ih (pollFailed v) hbusy (hsame.cfg ▸ hcfg)
      (hsame.resets.trans hr) ((pollFailed_phase_of_left hleft).trans (hblock ▸ hp)) (by rw [← hw, ← hblock]; rfl)
      (by rw [← hrx, ← hsame.periph]; rfl) (by rw [← hf, ← hsame.periph]; rfl) hi (by rw [← hsame.periph] at htx; exact htx)
      hsv (by omega) (fun n hn => by have hlt := hlim n (hsame.cfg ▸ hn); omega)
    refine ⟨t, (readSta v).1 :: vs, ?_, hbt, hwt, hpt, by omega, hrxt, by simp [hlen], ?_⟩
    · rw [runTicks_busy _ hb, htick, andThen_next, ht]
    · rw [hmmio, pollFailed, mmioEvents_readSta, List.map_cons, List.append_assoc,
        show v.mmioEvents = u.mmioEvents by rw [State.mmioEvents, hsame.trace]; rfl]
      rfl

end

/-- Settles O43: each poll is one tick, which fails or holds as the FIFOs stand. -/
theorem waitsPollStaUntilTheirTestHolds : Obligations.WaitsPollStaUntilTheirTestHolds := by
  intro s hb hcfg hr hp hpolls
  refine ⟨fun hf hfail n hlim => ?_, fun hf hhold => ?_, fun f fr more hw hrx hfr hi htx hs hwrap hlim => ?_⟩
  · obtain ⟨hw, hnot⟩ : (s.block.wte = .b3Txe ∨ s.block.wte = .b5Words ∨ s.block.wte = .b7Rx) ∧ ¬ waitHolds s := by
      rcases hfail with ⟨hw, h⟩ | ⟨hw, h⟩ | ⟨hw, h⟩
      · exact ⟨.inl hw, by simpa [waitHolds, hw] using h⟩
      · exact ⟨.inr (.inl hw), by simpa [waitHolds, hw] using h⟩
      · exact ⟨.inr (.inr hw), by simpa [waitHolds, hw] using h⟩
    obtain ⟨m, rfl⟩ : ∃ m, n = m + 1 := ⟨n - 1, by have hpos := (Config.wf_poll hcfg hlim).1; omega⟩
    exact runTicks_of_wait_fails hlim m s rfl hb hcfg hr hf hp hw hnot (by simp [hpolls])
  · obtain ⟨hw, hold⟩ : (s.block.wte = .b3Txe ∨ s.block.wte = .b5Words ∨ s.block.wte = .b7Rx) ∧ waitHolds s := by
      rcases hhold with ⟨hw, h⟩ | ⟨hw, h⟩ | ⟨hw, h⟩
      · exact ⟨.inl hw, by simpa [waitHolds, hw] using h⟩
      · exact ⟨.inr (.inl hw), by simpa [waitHolds, hw] using h⟩
      · exact ⟨.inr (.inr hw), by simpa [waitHolds, hw] using h⟩
    obtain ⟨b, hact, hover⟩ := act_of_wait_holds hcfg hp hw hold
    refine ⟨_, (readSta s).1, by rw [tick_of_no_reset hr, breathe_of_no_frame hf, andThen_next, hact],
      (State.busy_iff _).mpr ?_, hover.polls.trans hpolls, rfl, hover.txe, fun hne => ?_⟩
    · rw [State.withBlock_block, hover.cfl]; exact (State.busy_iff s).mp hb
    · obtain ⟨hwb, hpb, -⟩ := hover.word hne
      exact ⟨hwb, hpb⟩
  · have hzero : s.block.polls.toNat = 0 := by rw [hpolls]; rfl
    have hrun := runTicks_of_late_word f s hb hcfg hr hp hw hrx hfr hi htx hs (by omega)
      fun n hn => by have hlt := hlim n hn; omega
    rwa [hzero, Nat.zero_add] at hrun

end Sys2Proof.Machine

namespace Sys2Proof.Machine

/-! ## The drain, word by word -/

section
variable {s u : State} {w : Word} {l : List Word}

theorem act_of_drain (hw : u.block.wte = .b2Drain) (hp : u.block.phase = .start) : act u = .next (drainPoll u) := by
  rw [act_eq_of_wte hw (by simp), wteAct, hw]
  exact drain_of_poll (by simp [hp]) (by simp [hp])

/-- The state after the drain has polled STA and discarded the RX word w before the words l (R115). -/
def drained (w : Word) (l : List Word) (u : State) : State :=
  (((readSta u).2.withPeriph { u.periph with rx := l }).log (.mmioRead .rxd w)).withBlock
    { u.block with polls := u.block.polls + 1, phase := .start }

/-- With no frame running and no reset pending a tick is the action alone. -/
theorem tick_of_quiet (hf : u.periph.frame = none) (hr : u.env.resets = []) : tick u = act u := by
  rw [tick_of_no_reset hr, breathe_of_no_frame hf, andThen_next]

theorem readSta_rxe (hcfg : u.cfg.wf = true) : (readSta u).1.getLsbD u.cfg.rxeBit = rxEmpty u.periph :=
  staValue_rxe hcfg _ _

/-- The drain ends where it finds no word. -/
theorem tick_drain_ends (hcfg : u.cfg.wf = true) (hf : u.periph.frame = none) (hr : u.env.resets = [])
    (hw : u.block.wte = .b2Drain) (hp : u.block.phase = .start) (hrx : u.periph.rx = []) :
    tick u = .next (goPoll .b3Txe (readSta u).2) := by
  rw [tick_of_quiet hf hr, act_of_drain hw hp]
  simp [drainPoll, readSta_rxe hcfg, rxEmpty, hrx]

/-- The poll of the drain that finds a word. -/
theorem tick_drain_polls (hcfg : u.cfg.wf = true) (hf : u.periph.frame = none) (hr : u.env.resets = [])
    (hw : u.block.wte = .b2Drain) (hp : u.block.phase = .start) (hrx : u.periph.rx = w :: l) :
    tick u = .next (goPhase (if pollsSpent u.cfg u.block.polls then .giveUp else .last) (readSta u).2) := by
  rw [tick_of_quiet hf hr, act_of_drain hw hp]
  cases hs : pollsSpent u.cfg u.block.polls <;> simp [drainPoll, readSta_rxe hcfg, rxEmpty, hrx, hs]

/-- The read of RXD that discards the word found. -/
theorem tick_drain_takes (hf : u.periph.frame = none) (hr : u.env.resets = []) (hw : u.block.wte = .b2Drain)
    (hp : u.block.phase = .last) (hrx : u.periph.rx = w :: l) :
    tick u = .next (((u.withPeriph { u.periph with rx := l }).log (.mmioRead .rxd w)).withBlock
      { u.block with polls := u.block.polls + 1, phase := .start }) := by
  rw [tick_of_quiet hf hr, act_eq_of_wte hw (by simp), wteAct, hw]
  simp only [drain, hp, readRxd_of_cons hrx]
  rfl

/-- While the budget lasts the drain takes the next word in two actions. -/
theorem runTicks_drained (hb : u.busy = true) (hcfg : u.cfg.wf = true) (hf : u.periph.frame = none)
    (hr : u.env.resets = []) (hw : u.block.wte = .b2Drain) (hp : u.block.phase = .start) (hrx : u.periph.rx = w :: l)
    (hleft : pollsSpent u.cfg u.block.polls = false) (k : Nat) : runTicks (k + 2) u = runTicks k (drained w l u) := by
  have hpoll := tick_drain_polls hcfg hf hr hw hp hrx
  rw [hleft] at hpoll
  have htake : tick (goPhase .last (readSta u).2) = .next (drained w l u) :=
    tick_drain_takes (by exact hf) (by exact hr) (by exact hw) rfl (by exact hrx)
  calc runTicks (k + 2) u = runTicks (k + 1) (goPhase .last (readSta u).2) := by
        rw [runTicks_busy _ hb, hpoll]; rfl
    _ = runTicks k (drained w l u) := by rw [runTicks_busy _ (by exact hb), htake, andThen_next]

/-- The events of a drain that discards n words: reads of STA and RXD. -/
structure DrainEvents (n : Nat) (es : List Event) : Prop where
  shape : es.filterMap Event.shape? = List.replicate n (.rxd, false)
  length : es.length = 2 * n + 1
  mmio : es.filterMap Event.mmio? = es

theorem drainEvents_zero (v : Word) : DrainEvents 0 [.mmioRead .sta v] := ⟨rfl, rfl, rfl⟩

theorem DrainEvents.cons {n : Nat} {es : List Event} (h : DrainEvents n es) (v w : Word) :
    DrainEvents (n + 1) (.mmioRead .sta v :: .mmioRead .rxd w :: es) := by
  refine ⟨?_, ?_, ?_⟩
  · exact congrArg ((.rxd, false) :: ·) h.shape
  · simp only [List.length_cons, h.length]; omega
  · simp [Event.mmio?, h.mmio]

theorem drained_trace (w : Word) (l : List Word) (u : State) :
    (drained w l u).trace = u.trace ++ [.mmioRead .sta (readSta u).1, .mmioRead .rxd w] := by
  simp [drained, readSta, drawStaOther]

/-- A drain whose words are within the budget discards them all and goes on to the TXE wait. -/
theorem runTicks_drain : ∀ (l : List Word) (u : State), u.busy = true → u.cfg.wf = true → u.periph.frame = none →
    u.env.resets = [] → u.block.wte = .b2Drain → u.block.phase = .start → u.periph.rx = l →
    (∀ n, u.cfg.pollLimit = some n → u.block.polls.toNat + l.length ≤ n) →
    ∃ (t : State) (es : List Event), runTicks (2 * l.length + 1) u = .next t ∧ t.busy = true
      ∧ t.block.wte = .b3Txe ∧ t.periph.rx = [] ∧ t.periph.tx = u.periph.tx ∧ t.mem = u.mem
      ∧ t.block.resp = u.block.resp ∧ t.trace = u.trace ++ es ∧ DrainEvents l.length es := by
  intro l
  induction l with
  | nil =>
    intro u hb hcfg hf hr hw hp hrx hlim
    refine ⟨goPoll .b3Txe (readSta u).2, [.mmioRead .sta (readSta u).1], ?_, by exact hb, rfl, by exact hrx, rfl, rfl,
      rfl, rfl, drainEvents_zero _⟩
    rw [List.length_nil, runTicks_busy _ hb, tick_drain_ends hcfg hf hr hw hp hrx]; rfl
  | cons w l ih =>
    intro u hb hcfg hf hr hw hp hrx hlim
    have hleft : pollsSpent u.cfg u.block.polls = false := pollsSpent_eq_false fun n hn => by
      have hle := hlim n hn
      rw [List.length_cons] at hle; omega
    obtain ⟨t, es, ht, hbt, hwt, hrxt, htx, hmem, hresp, htrace, hes⟩ := ih (drained w l u) hb hcfg hf hr hw rfl rfl
      fun n hn => by
        have hle := hlim n hn
        have hlt := (Config.wf_poll hcfg hn).2
        rw [List.length_cons] at hle
        have hsucc := toNat_succ_of_lt (x := u.block.polls) (n := n) (by omega) hlt
        change (u.block.polls + 1).toNat + l.length ≤ n
        omega
    refine ⟨t, .mmioRead .sta (readSta u).1 :: .mmioRead .rxd w :: es, ?_, hbt, hwt, hrxt, htx, hmem, hresp, ?_,
      hes.cons _ _⟩
    · rw [List.length_cons, show 2 * (l.length + 1) + 1 = 2 * l.length + 1 + 2 by omega,
        runTicks_drained hb hcfg hf hr hw hp hrx hleft, ht]
    · rw [htrace, drained_trace]; simp

/-- A drain with more words than its budget gives up after as many as the budget. -/
theorem runTicks_drain_spent {n : Nat} : ∀ (m : Nat) (u : State), u.busy = true → u.cfg.wf = true →
    u.periph.frame = none → u.env.resets = [] → u.block.wte = .b2Drain → u.block.phase = .start →
    u.cfg.pollLimit = some n → u.block.polls.toNat + m = n → m < u.periph.rx.length →
    ∃ (t : State) (es : List Event), runTicks (2 * m + 2) u = .next t ∧ t.busy = false
      ∧ t.block.status = .deviceNotResponding ∧ t.periph.rx = u.periph.rx.drop m ∧ t.mem = u.mem
      ∧ t.block.resp = u.block.resp ∧ t.trace = u.trace ++ es ++ [.complete .deviceNotResponding]
      ∧ DrainEvents m es := by
  intro m
  induction m with
  | zero =>
    intro u hb hcfg hf hr hw hp hlim hpolls hlen
    obtain ⟨w, l, hrx⟩ := List.exists_cons_of_length_pos hlen
    have hspent : pollsSpent u.cfg u.block.polls = true := (pollsSpent_iff _ _).mpr ⟨n, hlim, by omega⟩
    have hpoll := tick_drain_polls hcfg hf hr hw hp hrx
    rw [hspent] at hpoll
    have hend : tick (goPhase .giveUp (readSta u).2)
        = .next (endRequest .deviceNotResponding (goPhase .giveUp (readSta u).2)) := by
      rw [tick_of_quiet (by exact hf) (by exact hr)]
      exact act_of_giveUp (u := goPhase .giveUp (readSta u).2) rfl (.inl hw)
    refine ⟨endRequest .deviceNotResponding (goPhase .giveUp (readSta u).2), [.mmioRead .sta (readSta u).1], ?_, rfl, rfl,
      rfl, rfl, rfl, rfl, drainEvents_zero _⟩
    calc runTicks (2 * 0 + 2) u = runTicks 1 (goPhase .giveUp (readSta u).2) := by
          rw [runTicks_busy _ hb, hpoll]; rfl
      _ = _ := by rw [runTicks_busy _ (by exact hb), hend]; rfl
  | succ m ih =>
    intro u hb hcfg hf hr hw hp hlim hpolls hlen
    obtain ⟨w, l, hrx⟩ := List.exists_cons_of_length_pos (show 0 < u.periph.rx.length by omega)
    have hleft : pollsSpent u.cfg u.block.polls = false := pollsSpent_eq_false fun k hk => by
      obtain rfl : n = k := Option.some.inj (hlim.symm.trans hk)
      omega
    have hsucc := toNat_succ_of_lt (x := u.block.polls) (n := n) (by omega) (Config.wf_poll hcfg hlim).2
    obtain ⟨t, es, ht, hbt, hst, hrxt, hmem, hresp, htrace, hes⟩ := ih (drained w l u) hb hcfg hf hr hw rfl hlim
      (by change (u.block.polls + 1).toNat + m = n; omega)
      (by rw [hrx, List.length_cons] at hlen; change m < l.length; omega)
    refine ⟨t, .mmioRead .sta (readSta u).1 :: .mmioRead .rxd w :: es, ?_, hbt, hst, ?_, hmem, hresp, ?_, hes.cons _ _⟩
    · rw [show 2 * (m + 1) + 2 = 2 * m + 2 + 2 by omega, runTicks_drained hb hcfg hf hr hw hp hrx hleft, ht]
    · rw [hrxt, hrx]; rfl
    · rw [htrace, drained_trace]; simp

end

/-- Settles O44: the drain takes its words one by one while the budget lasts. -/
theorem drainDiscardsTheStaleWords : Obligations.DrainDiscardsTheStaleWords := by
  intro s hb hcfg hf hr hw hp hpolls
  have hzero : s.block.polls.toNat = 0 := by rw [hpolls]; rfl
  refine ⟨fun hfits => ?_, fun n hlim hlen => ?_⟩
  · obtain ⟨t, es, ht, hbt, hwt, hrx, htx, hmem, hresp, htrace, hes⟩ :=
      runTicks_drain s.periph.rx s hb hcfg hf hr hw hp rfl fun n hn => by have hle := hfits n hn; omega
    exact ⟨t, es, ht, hbt, hwt, hrx, htx, hmem, hresp, htrace, hes.shape, hes.length, hes.mmio⟩
  · obtain ⟨t, es, ht, hbt, hst, hrx, hmem, hresp, htrace, hes⟩ :=
      runTicks_drain_spent n s hb hcfg hf hr hw hp hlim (by omega) hlen
    exact ⟨t, es, ht, hbt, hst, hrx, hmem, hresp, htrace, hes.shape, hes.length, hes.mmio⟩

end Sys2Proof.Machine

namespace Sys2Proof.Machine

/-! ## Requests of no bytes -/

section
variable {s : State} {b b' : Block} {k : Nat}

/-- From the registers b the request ends OK within k actions, which touch nothing but the block's registers. -/
def EndsUntouched (k : Nat) (s : State) (b : Block) : Prop :=
  ∃ b', runTicks k (s.withBlock b) = .next (endRequest .ok (s.withBlock b'))

/-- An action that only moves the registers puts the end off by one tick. -/
theorem EndsUntouched.before (hr : s.env.resets = []) (hf : s.periph.frame = none) (hc : b.cfl ≠ .idle)
    (hact : act (s.withBlock b) = .next (s.withBlock b')) (h : EndsUntouched k s b') : EndsUntouched (k + 1) s b := by
  obtain ⟨c, hend⟩ := h
  refine ⟨c, ?_⟩
  rw [runTicks_busy _ ((State.busy_iff _).mpr hc), tick_of_quiet (by exact hf) (by exact hr), hact, andThen_next, hend]

theorem endsUntouched_of_finish (hr : s.env.resets = []) (hf : s.periph.frame = none) (hc : b.cfl = .finish)
    (hw : b.wte = .none) : EndsUntouched 1 s b := by
  have hact : cflAct (s.withBlock b) = endRequest .ok (s.withBlock b) := by simp only [cflAct, State.withBlock_block, hc]
  refine ⟨b, ?_⟩
  rw [runTicks_busy _ ((State.busy_iff _).mpr (by simp [hc])), tick_of_quiet (by exact hf) (by exact hr), act_eq_cflAct hw, hact]
  rfl

/-- A call of no bytes returns at its first action (R111). -/
theorem endsUntouched_of_top (hr : s.env.resets = []) (hf : s.periph.frame = none) (hw : b.wte = .top)
    (hc : b.cfl = .sendTop ∨ b.cfl = .recvTop) (hoff : b.wOff = b.wSize) : EndsUntouched 2 s b := by
  have hact : act (s.withBlock b) = .next (s.withBlock { b with wte := .none, cfl := afterCall b.cfl }) := by
    rw [act_eq_of_wte (w := .top) hw (by simp), wteAct, State.withBlock_block, hw]
    change Host.Outcome.next (wTop (s.withBlock b)) = _
    rw [wTop, if_pos (by exact hoff)]
    rfl
  have hfin : afterCall b.cfl = .finish := by rcases hc with hc | hc <;> rw [hc] <;> rfl
  exact (endsUntouched_of_finish hr hf hfin rfl).before hr hf (by rcases hc with hc | hc <;> simp [hc]) hact

/-- SEND and RECV of no bytes call for nothing (R125, R128). -/
theorem endsUntouched_of_call (hr : s.env.resets = []) (hf : s.periph.frame = none) (hw : b.wte = .none)
    (hc : b.cfl = .sendTop ∨ b.cfl = .recvTop) (hsize : b.size = 0) : EndsUntouched 3 s b := by
  have hact : ∃ d, act (s.withBlock b) = .next (callWte d .buf b.buf b.size (s.withBlock b)) := by
    rw [act_eq_cflAct hw, cflAct]
    rcases hc with hc | hc
    · exact ⟨.send, by simp only [State.withBlock_block, hc]⟩
    · exact ⟨.receive, by simp only [State.withBlock_block, hc]⟩
  obtain ⟨d, hact⟩ := hact
  refine EndsUntouched.before hr hf (by rcases hc with hc | hc <;> simp [hc]) hact ?_
  exact endsUntouched_of_top hr hf rfl hc hsize.symm

/-- CMD53 of no bytes has no chunk (R150). -/
theorem endsUntouched_of_c53Top (hr : s.env.resets = []) (hf : s.periph.frame = none) (hw : b.wte = .none)
    (hc : b.cfl = .c53Top) (hrem : b.rem = 0) : EndsUntouched 2 s b := by
  have hact : act (s.withBlock b) = .next (s.withBlock { b with cfl := .finish }) := by
    rw [act_eq_cflAct hw, cflAct]
    simp only [State.withBlock_block, hc]
    exact congrArg Host.Outcome.next (if_pos hrem)
  exact (endsUntouched_of_finish (b := { b with cfl := .finish }) hr hf rfl hw).before hr hf (by simp [hc]) hact

theorem EndsUntouched.mono {n : Nat} (h : EndsUntouched k s b) (hk : k ≤ n) : EndsUntouched n s b := by
  obtain ⟨c, hend⟩ := h
  exact ⟨c, runTicks_of_le hend (endRequest_busy _ _) hk⟩

end

theorem badBuffer_zero (buf : Word) : badBuffer buf 0 = false := by simp [badBuffer]

/-- CHECK accepts a request of size 0 for any buf (R173), and the rest of it calls for nothing. -/
theorem endsUntouched_of_size_zero {s : State} {buf : Word} {i : Instr} {b : Block}
    (hi : i = .send buf 0 ∨ i = .recv buf 0 ∨ i = .cmd53r buf 0 ∨ i = .cmd53w buf 0)
    (hr : s.env.resets = []) (hf : s.periph.frame = none) (hw : b.wte = .none) (hc : b.cfl = .check)
    (hop : b.op = i.op) (hbuf : b.buf = buf) (hsize : b.size = 0) : EndsUntouched 4 s b := by
  have hgood : badBuffer b.buf b.size = false := by rw [hsize]; exact badBuffer_zero _
  have hact : act (s.withBlock b) = .next (checkRequest (s.withBlock b)) := by
    rw [act_eq_cflAct hw, cflAct]
    simp only [State.withBlock_block, hc]
  have hreq : decodeReq b.op b.buf b.size = i := by
    rw [hop, hbuf, hsize]
    rcases hi with rfl | rfl | rfl | rfl <;> rfl
  have hnext : ∀ b', checkRequest (s.withBlock b) = s.withBlock b' → EndsUntouched 3 s b' → EndsUntouched 4 s b :=
    fun b' he h => h.before hr hf (by simp [hc]) (hact.trans (congrArg _ he))
  rcases hi with rfl | rfl | rfl | rfl
  · refine hnext { b with cfl := .sendTop } ?_ (endsUntouched_of_call hr hf (by exact hw) (.inl rfl) hsize)
    simp only [checkRequest, State.withBlock_block, hreq, checkBuffer, hgood]; rfl
  · refine hnext { b with cfl := .recvTop } ?_ (endsUntouched_of_call hr hf (by exact hw) (.inr rfl) hsize)
    simp only [checkRequest, State.withBlock_block, hreq, checkBuffer, hgood]; rfl
  all_goals
    refine hnext { b with cfl := .c53Top, cur := 0, rem := b.size } ?_
      ((endsUntouched_of_c53Top hr hf (by exact hw) rfl hsize).mono (Nat.le_succ 2))
    simp only [checkRequest, State.withBlock_block, hreq, checkC53, hgood]; rfl

/-- Settles O15: CHECK accepts the request, and no call of it moves a byte. -/
theorem sizeZeroEndsOkWithNoAccess : Obligations.SizeZeroEndsOkWithNoAccess := by
  intro s buf i hi hb hr hf
  have hmoves : movesBytes (decodeReq i.op i.buf i.size) = false := by
    rw [decodeReq_fields]
    rcases hi with rfl | rfl | rfl | rfl <;> simp [movesBytes, Instr.usesBuffer, Instr.size]
  have hbuf : i.buf = buf := by rcases hi with rfl | rfl | rfl | rfl <;> rfl
  have hsize : i.size = 0 := by rcases hi with rfl | rfl | rfl | rfl <;> rfl
  obtain ⟨b', hend⟩ := ((endsUntouched_of_size_zero hi hr hf (b := { s.block with
      op := i.op, buf := i.buf, size := i.size, cfl := .check, wte := .none }) rfl rfl rfl hbuf hsize).mono
    (show 4 ≤ tickFuel by simp [tickFuel]))
  refine ⟨endRequest .ok (s.withBlock b'), ?_, endRequest_busy _ _, rfl, rfl, rfl, rfl, rfl, rfl, rfl, rfl⟩
  rw [exec_of_idle i hb, accept_of_no_bytes hmoves, resume, hend]

end Sys2Proof.Machine

namespace Sys2Proof.Machine

/-! ## The poll budget -/

/-- The next action may count a poll: of a wait that is polled, or of the drain that takes the word it found. -/
def Counts (b : Block) : Prop :=
  b.wte = .b2Drain ∧ b.phase = .last ∨ b.wte = .b3Txe ∧ b.phase ≠ .giveUp
    ∨ (b.wte = .b5Words ∨ b.wte = .b7Rx) ∧ b.phase = .start

/-- A poll is counted only while the budget lasts (R112, R115). -/
def Budgeted (c : Config) (b : Block) : Prop := Counts b → pollsSpent c b.polls = false

section
variable {u v : State}

/-- A wait that may count a poll is polled, and is over once its test holds. -/
theorem act_of_counts (h : Counts u.block) (hw : u.block.wte ≠ .b2Drain) :
    ∃ t onHold, act u = waitPoll t onHold u ∧ ¬ Counts (onHold (readSta u).2).block := by
  rcases h with ⟨hw', -⟩ | ⟨hw, hp⟩ | ⟨hw | hw, hp⟩
  · exact absurd hw' hw
  · refine ⟨.txe, goWte .b4Fl, ?_, by simp [Counts, goWte]⟩
    rw [act_eq_of_wte hw (by simp), wteAct, hw]
    exact waitTxe_of_poll hp
  · refine ⟨.notTxf, beginTxWord, ?_, ?_⟩
    · rw [act_eq_of_wte hw (by simp), wteAct, hw]
      simp only [txWords, hp]
    · obtain ⟨b, hb, hover⟩ := beginTxWord_over hw
      obtain ⟨hwb, hpb, -⟩ := hover.word (by simp [hw])
      rw [hb, State.withBlock_block]
      simp [Counts, hwb, hw, hpb]
  · exact ⟨.notRxe, goPhase .last, act_rxPoll hw hp, by simp [Counts, goPhase, readSta_block, hw]⟩

/-- A poll of a wait that fails leaves the budget lasting, or the wait about to give up (R112). -/
theorem budgeted_of_poll (h : Counts u.block) (hw : u.block.wte ≠ .b2Drain) (hv : act u = .next v) :
    Budgeted v.cfg v.block := by
  obtain ⟨t, onHold, hact, hover⟩ := act_of_counts h hw
  rcases waitPoll_next (hact.symm.trans hv) with ⟨-, rfl⟩ | ⟨-, hleft, rfl⟩ | ⟨-, -, rfl⟩
  · exact fun hc => absurd hc hover
  · exact fun _ => hleft
  · simp [Budgeted, Counts]

/-- What an action of the drain that stays there does to its phase: the word found is taken, or the poll found one
(R115). -/
theorem drain_phase (hw : u.block.wte = .b2Drain) (hv : act u = .next v) (hw' : v.block.wte = .b2Drain) :
    u.block.phase = .last ∧ v.block.phase = .start
    ∨ (u.block.phase ≠ .last ∧ u.block.phase ≠ .giveUp)
      ∧ (v.block.phase = .giveUp ∨ v.block.phase = .last ∧ pollsSpent v.cfg v.block.polls = false) := by
  rw [act_eq_of_wte hw (by simp), wteAct, hw] at hv
  change drain u = .next v at hv
  by_cases hl : u.block.phase = .last
  · unfold drain at hv
    rw [hl] at hv
    obtain ⟨r, -, hr⟩ := andThen_eq_next.mp hv
    cases hr
    exact .inl ⟨hl, rfl⟩
  by_cases hg : u.block.phase = .giveUp
  · unfold drain at hv
    rw [hg] at hv
    cases hv
    cases hw'
  · rw [drain_of_poll hl hg] at hv
    cases hv
    refine .inr ⟨⟨hl, hg⟩, ?_⟩
    unfold drainPoll at hw' ⊢
    dsimp only at hw' ⊢
    split at hw'
    · cases hw'
    · rename_i hrx
      rw [if_neg hrx]
      split
      · exact .inl rfl
      · rename_i hleft
        exact .inr ⟨rfl, eq_false_of_ne_true hleft⟩

/-- A read-modify-write of CTL reads, and leaves its state by writing (R114, R116, R118). -/
theorem ctl_wte_eq_iff (hw : u.block.wte = .b1TrigOff ∨ u.block.wte = .b4Fl ∨ u.block.wte = .b6TrigOn)
    (hv : act u = .next v) : v.block.wte = u.block.wte ↔ u.block.phase ≠ .last := by
  have hread : (ctlRead u).block.wte = u.block.wte := rfl
  rcases hw with hw | hw | hw <;> rw [act_eq_of_wte hw (by simp), wteAct, hw] at hv <;> cases hv <;>
    by_cases hp : u.block.phase = .last
  · simp [trigOff, hp, goPoll, hw]
  · simp [trigOff_of_not_last hp, hread, hp]
  · simp [setFl, hp, goWords, hw]
  · simp [setFl_of_not_last hp, hread, hp]
  · simp [trigOn, hp, goWords, hw]
  · simp [trigOn_of_not_last hp, hread, hp]

end

theorem pollsSpent_zero {c : Config} (h : c.wf = true) : pollsSpent c 0 = false :=
  pollsSpent_eq_false fun _ hn => (Config.wf_poll h hn).1

theorem wordDone_polls {after : Wte} (ha : after = .b6TrigOn ∨ after = .next) {b : Block}
    (h : Counts (wordDone after b)) : (wordDone after b).polls = 0 := by
  rcases wordDone_cases after b with ⟨-, he⟩ | ⟨-, he⟩ <;> rw [he] at h ⊢
  rcases ha with rfl | rfl <;> simp [Counts] at h

/-- Where the block may count a poll it has counted none, or it waits as it did. -/
theorem WteMove.counts {b b' : Block} {es : List Event} (hm : WteMove b es b')
    (hp : b.wte = .b3Txe → b.phase ≠ .giveUp) (h : Counts b') :
    b'.polls = 0 ∨ Counts b ∧ b.wte ≠ .b2Drain ∨ b.wte = .b2Drain ∧ b'.wte = .b2Drain := by
  cases hm with
  | txdWritten => exact .inl (wordDone_polls (.inl rfl) h)
  | rxdDiscarded => exact .inl (wordDone_polls (.inr rfl) h)
  | stores k es r hw =>
    rcases byteDone_cases k (wordDone .next { b with resp := r }) { b with resp := r } with ⟨_, he⟩ | ⟨_, he⟩ <;>
      rw [he] at h ⊢
    · simp [Counts, hw] at h
    · exact .inl (wordDone_polls (.inr rfl) h)
  | packs k es v hw =>
    rcases byteDone_cases k { b with latch := setByte b.latch k v, phase := .last }
      { b with latch := setByte b.latch k v } with ⟨_, he⟩ | ⟨_, he⟩ <;> rw [he] at h <;> simp [Counts, hw] at h
  | waitGoesOn v p hw =>
    refine .inr (.inl ?_)
    rcases hw with hw | ⟨hw, hs, -⟩
    · exact ⟨.inr (.inl ⟨hw, hp hw⟩), by simp [hw]⟩
    · exact ⟨.inr (.inr ⟨hw, hs⟩), by rcases hw with hw | hw <;> simp [hw]⟩
  | drainGoesOn v p hw => exact .inr (.inr ⟨hw, hw⟩)
  | drainTakes w hw => exact .inr (.inr ⟨hw, hw⟩)
  | drainEnds => exact .inl rfl
  | flSet => exact .inl rfl
  | trigOn => exact .inl rfl
  | ctlRead v hw => rcases hw with hw | hw | hw <;> simp [Counts, hw] at h
  | dummyWordBegins v hw | sendWordBegins v hw | rxeHolds v hw | rxdTaken v hw => simp [Counts, hw] at h
  | _ => simp [Counts] at h

/-- Whatever the block does, it has polls left where it may count one. -/
theorem act_budgeted {u v : State} (hb : u.busy = true) (hcfg : u.cfg.wf = true) (hv : act u = .next v) :
    Budgeted v.cfg v.block := by
  intro hcounts
  have hcfgv : v.cfg.wf = true := (act_actOnly hv).cfg ▸ hcfg
  obtain ⟨es, ⟨hn, hm⟩ | ⟨hn, hm⟩, -, -⟩ := act_acts hb hv
  · rcases hm.wte hn with hw | ⟨hw, -⟩ <;> simp [Counts, hw] at hcounts
  by_cases hg : u.block.wte = .b3Txe ∧ u.block.phase = .giveUp
  · rw [act_of_giveUp hg.2 (.inr (.inl hg.1))] at hv
    cases hv
    simp [Counts] at hcounts
  rcases hm.counts (fun hw hp => hg ⟨hw, hp⟩) hcounts with hzero | ⟨hc, hw⟩ | ⟨hw, hw'⟩
  · rw [hzero]; exact pollsSpent_zero hcfgv
  · exact budgeted_of_poll hc hw hv hcounts
  · rcases drain_phase hw hv hw' with ⟨-, hp⟩ | ⟨-, hp | ⟨-, hleft⟩⟩
    · simp [Counts, hw', hp] at hcounts
    · simp [Counts, hw', hp] at hcounts
    · exact hleft

/-! ## The actions left of a request -/

/-- The states of a burst still to come (R113). -/
def wteLeft : Wte → Nat
  | .none | .top | .next => 0
  | .b7Rx => 1
  | .b6TrigOn => 2
  | .b5Words => 3
  | .b4Fl => 4
  | .b3Txe => 5
  | .b2Drain => 6
  | .b1TrigOff => 7

/-- The phases still to come of a word or access of B1 to B6, which its last one writes. -/
def txPhaseLeft : Phase → Nat
  | .start => 7
  | .byte k => 6 - k.val
  | .giveUp => 2
  | .last => 1

/-- The phases still to come of a word of B7, which is read before its bytes are stored. -/
def rxPhaseLeft : Phase → Nat
  | .start => 7
  | .last => 6
  | .byte k => 5 - k.val
  | .giveUp => 1

def phaseLeft (b : Block) : Nat := if b.wte = .b7Rx then rxPhaseLeft b.phase else txPhaseLeft b.phase

/-- What is left of a burst with n polls to a wait: the states and words, then the polls of the one in hand. -/
def inBurstLeft (n : Nat) (b : Block) : Nat :=
  (16 * wteLeft b.wte + (15 - b.wj.toNat)) * 2 ^ 36 + (8 * (n - b.polls.toNat) + phaseLeft b)

/-- What is left of the bytes of a call. -/
def bytesLeft (b : Block) : Nat :=
  match b.wte with
  | .none => 2 ^ 33
  | .top => 2 * (b.wSize.toNat - b.wOff.toNat) + 1
  | _ => 2 * (b.wSize.toNat - b.wOff.toNat)

/-- The calls and chunks of a request still to come (R145, R150). -/
def callsLeft (b : Block) : Nat :=
  match b.cfl with
  | .idle => 0
  | .finish | .c0Eval => 1
  | .c0Recv | .sendTop | .recvTop => 2
  | .c0Send => 3
  | .c53Next => 16 * b.rem.toNat + 3
  | .c53Trl => 16 * b.rem.toNat + 4
  | .c53Pay => 16 * b.rem.toNat + 5
  | .c53Hdr => 16 * b.rem.toNat + 6
  | .c53Top => 16 * b.rem.toNat + 7
  | .check => 2 ^ 36 + 16

/-- A measure of the actions left of a request with n polls to a wait, most significant first. -/
def actionsLeft (n : Nat) (b : Block) : Nat := (callsLeft b * 2 ^ 34 + bytesLeft b) * 2 ^ 44 + inBurstLeft n b

theorem phaseLeft_lt (b : Block) : phaseLeft b < 8 := by
  unfold phaseLeft
  split
  · cases b.phase <;> simp only [rxPhaseLeft] <;> omega
  · cases b.phase <;> simp only [txPhaseLeft] <;> omega

theorem inBurstLeft_lt {n : Nat} (h : n < 2 ^ 32) (b : Block) : inBurstLeft n b < 2 ^ 44 := by
  have hp := phaseLeft_lt b
  have hw : wteLeft b.wte ≤ 7 := by cases b.wte <;> simp [wteLeft]
  unfold inBurstLeft
  omega

theorem bytesLeft_lt (b : Block) : bytesLeft b < 2 ^ 34 := by
  have hsize := b.wSize.isLt
  unfold bytesLeft
  split <;> omega

/-- The more significant parts decide. -/
theorem actionsLeft_lt {n : Nat} {b b' : Block} (hn : n < 2 ^ 32)
    (h : callsLeft b' < callsLeft b ∨ callsLeft b' = callsLeft b ∧ (bytesLeft b' < bytesLeft b
      ∨ bytesLeft b' = bytesLeft b ∧ inBurstLeft n b' < inBurstLeft n b)) : actionsLeft n b' < actionsLeft n b := by
  have hbytes := bytesLeft_lt b'
  have hburst := inBurstLeft_lt hn b'
  unfold actionsLeft
  omega

theorem inBurstLeft_lt_of_places {n : Nat} {b b' : Block} (hn : n < 2 ^ 32)
    (h : 16 * wteLeft b'.wte + (15 - b'.wj.toNat) < 16 * wteLeft b.wte + (15 - b.wj.toNat)) :
    inBurstLeft n b' < inBurstLeft n b := by
  have hp := phaseLeft_lt b'
  unfold inBurstLeft
  omega

/-- Between its calls a request comes nearer its end with every move. -/
theorem CflMove.actionsLeft_lt {n : Nat} {b b' : Block} {es : List Event} (hm : CflMove b es b') (hn : n < 2 ^ 32)
    (hok : BlockOk b) (hw : b.wte = .none) (hb : b'.cfl ≠ .idle) : actionsLeft n b' < actionsLeft n b := by
  have hchunk := hok.chunkOk
  refine Machine.actionsLeft_lt hn ?_
  cases hm with
  | ends => exact absurd rfl hb
  | calls d w base m h =>
    refine .inr ⟨rfl, .inl ?_⟩
    have hm := m.isLt
    simp only [bytesLeft, hw]
    change 2 * (m.toNat - 0) + 1 < 2 ^ 33
    omega
  | bufferChecked c hc hbad h =>
    refine .inl ?_
    rcases h with ⟨-, rfl⟩ | ⟨-, rfl⟩ <;> simp [callsLeft, hc]
  | cmd0Checked hc => exact .inl (by simp [callsLeft, hc])
  | cmd53Checked hc =>
    have hsize := b.size.isLt
    refine .inl ?_
    simp only [callsLeft, hc]
    omega
  | chunkBegins hc => exact .inl (by simp [callsLeft, hc])
  | noChunkLeft hc => exact .inl (by simp only [callsLeft, hc]; omega)
  | chunkEnds hc =>
    simp only [Machine.chunkOk, hc] at hchunk
    obtain ⟨-, hpos, -, hle⟩ := hchunk
    have hrem : (b.rem - b.chunk.setWidth 32).toNat = b.rem.toNat - b.chunk.toNat := by
      rw [BitVec.toNat_sub_of_le (by rw [BitVec.le_def, toNat_chunk]; exact hle), toNat_chunk]
    refine .inl ?_
    simp only [callsLeft, hc, hrem]
    omega

end Sys2Proof.Machine

namespace Sys2Proof.Machine

section
variable {n : Nat} {b b' : Block} {es : List Event}

/-- A move inside a burst that comes nearer its end. -/
structure Nearer (n : Nat) (b b' : Block) : Prop where
  cfl : b'.cfl = b.cfl
  rem : b'.rem = b.rem
  less : inBurstLeft n b' < inBurstLeft n b

theorem nearer_of_places (hn : n < 2 ^ 32) (hcfl : b'.cfl = b.cfl) (hrem : b'.rem = b.rem)
    (h : 16 * wteLeft b'.wte + (15 - b'.wj.toNat) < 16 * wteLeft b.wte + (15 - b.wj.toNat)) : Nearer n b b' :=
  ⟨hcfl, hrem, inBurstLeft_lt_of_places hn h⟩

/-- The next state of the burst is nearer, whatever its words. -/
theorem nearer_of_wte (hn : n < 2 ^ 32) (hcfl : b'.cfl = b.cfl) (hrem : b'.rem = b.rem)
    (h : wteLeft b'.wte < wteLeft b.wte) : Nearer n b b' :=
  nearer_of_places hn hcfl hrem (by have hj := b.wj.isLt; omega)

/-- The next phase of a word is nearer, and so is the next poll of a wait. -/
theorem nearer_of_phase (hcfl : b'.cfl = b.cfl) (hrem : b'.rem = b.rem) (hw : b'.wte = b.wte) (hj : b'.wj = b.wj)
    (h : 8 * (n - b'.polls.toNat) + phaseLeft b' < 8 * (n - b.polls.toNat) + phaseLeft b) : Nearer n b b' :=
  ⟨hcfl, hrem, by unfold inBurstLeft; rw [hw, hj]; omega⟩

theorem nearer_of_txPhase {p : Phase} {l : Word} (hw : b.wte ≠ .b7Rx) (h : txPhaseLeft p < txPhaseLeft b.phase) :
    Nearer n b { b with phase := p, latch := l } :=
  nearer_of_phase rfl rfl rfl rfl (by simpa [phaseLeft, hw] using h)

theorem nearer_of_rxPhase {p : Phase} {l : Word} {r : Byte} (hw : b.wte = .b7Rx)
    (h : rxPhaseLeft p < rxPhaseLeft b.phase) : Nearer n b { b with phase := p, latch := l, resp := r } :=
  nearer_of_phase rfl rfl rfl rfl (by simpa [phaseLeft, hw] using h)

theorem one_lt_txPhaseLeft {p : Phase} (h : p ≠ .last) : 1 < txPhaseLeft p := by
  cases p with
  | last => contradiction
  | _ => simp only [txPhaseLeft]; omega

theorem nearer_of_poll (hn : n < 2 ^ 32) (hcfl : b'.cfl = b.cfl) (hrem : b'.rem = b.rem) (hw : b'.wte = b.wte)
    (hj : b'.wj = b.wj) (hp : b'.polls = b.polls + 1) (hleft : b.polls.toNat < n) (hph : phaseLeft b' < phaseLeft b + 8) :
    Nearer n b b' :=
  nearer_of_phase hcfl hrem hw hj (by rw [hp, toNat_succ_of_lt hleft hn]; omega)

theorem nearer_wordDone (hn : n < 2 ^ 32) {after : Wte} (hlen : b.blen.toNat ≤ burstMax)
    (hj : b.wj.toNat < burstWords b) (ha : wteLeft after < wteLeft b.wte) : Nearer n b (wordDone after b) := by
  have hsucc := toNat_wj_succ hlen hj
  rcases wordDone_cases after b with ⟨-, he⟩ | ⟨-, he⟩ <;> rw [he]
  · refine nearer_of_places hn rfl rfl ?_
    have hlt := (b.wj + 1).isLt
    dsimp only
    omega
  · exact nearer_of_wte hn rfl rfl ha

/-- What the moves of an action say of the phase and the polls beside the registers they set (R112, R114, R115). -/
structure MoveFacts (n : Nat) (b b' : Block) : Prop where
  polls : Counts b → b.polls.toNat < n
  ctl : b.wte = .b1TrigOff ∨ b.wte = .b4Fl ∨ b.wte = .b6TrigOn → (b'.wte = b.wte ↔ b.phase ≠ .last)
  drain : b.wte = .b2Drain → b'.wte = .b2Drain →
    b.phase = .last ∧ b'.phase = .start ∨ (b.phase ≠ .last ∧ b.phase ≠ .giveUp) ∧ (b'.phase = .giveUp ∨ b'.phase = .last)
  txe : b.wte = .b3Txe → b'.cfl ≠ .idle → b.phase ≠ .giveUp

theorem nearer_of_drainGoesOn {p : Phase} (hw : b.wte = .b2Drain) (hp : p = .last ∨ p = .giveUp)
    (hf : MoveFacts n b { b with phase := p }) : Nearer n b { b with phase := p } := by
  refine nearer_of_txPhase (l := b.latch) (by simp [hw]) ?_
  rcases hf.drain hw hw with ⟨-, hs⟩ | ⟨⟨hl, hg⟩, -⟩
  · rcases hp with rfl | rfl <;> cases hs
  · have hlt : 2 < txPhaseLeft b.phase := by
      cases hb : b.phase with
      | last => exact absurd hb hl
      | giveUp => exact absurd hb hg
      | _ => simp only [txPhaseLeft]; omega
    rcases hp with rfl | rfl
    · exact Nat.lt_trans Nat.one_lt_two hlt
    · exact hlt

/-- Inside a burst every move comes nearer the end of the burst, unless it gives up. -/
theorem WteMove.nearer (hm : WteMove b es b') (hn : n < 2 ^ 32) (hok : BlockOk b) (hf : MoveFacts n b b')
    (ht : b.wte ≠ .top) (hx : b.wte ≠ .next) (hb : b'.cfl ≠ .idle) : Nearer n b b' := by
  cases hm with
  | callReturns hw => exact absurd hw ht
  | burstBegins hw => exact absurd hw ht
  | burstEnds hw => exact absurd hw hx
  | givesUp => exact absurd rfl hb
  | ctlRead v hw =>
    exact nearer_of_txPhase (by rcases hw with hw | hw | hw <;> simp [hw]) (one_lt_txPhaseLeft ((hf.ctl hw).mp rfl))
  | drainGoesOn v p hw hp => exact nearer_of_drainGoesOn hw hp hf
  | drainTakes w hw =>
    have hlast : b.phase = .last := by
      rcases hf.drain hw hw with ⟨hl, -⟩ | ⟨-, hp | hp⟩
      · exact hl
      · cases hp
      · cases hp
    refine nearer_of_poll hn rfl rfl rfl rfl rfl (hf.polls (.inl ⟨hw, hlast⟩)) ?_
    simp [phaseLeft, hw, hlast, txPhaseLeft]
  | waitGoesOn v p hw =>
    have hcounts : Counts b := by
      rcases hw with hw | ⟨hw, hp, -⟩
      · exact .inr (.inl ⟨hw, hf.txe hw hb⟩)
      · exact .inr (.inr ⟨hw, hp⟩)
    have hlt := phaseLeft_lt { b with polls := b.polls + 1, phase := p }
    exact nearer_of_poll hn rfl rfl rfl rfl rfl (hf.polls hcounts) (by omega)
  | dummyWordBegins v hw hp => exact nearer_of_txPhase (by simp [hw]) (by simp [hp, txPhaseLeft])
  | sendWordBegins v hw hp => exact nearer_of_txPhase (by simp [hw]) (by simp [hp, txPhaseLeft])
  | packs k es v hw hp =>
    rcases byteDone_cases k { b with latch := setByte b.latch k v, phase := .last }
      { b with latch := setByte b.latch k v } with ⟨hk, he⟩ | ⟨hk, he⟩ <;> rw [he] <;>
      refine nearer_of_txPhase (by simp [hw]) ?_ <;> rw [hp] <;> simp only [txPhaseLeft] <;> omega
  | txdWritten hw =>
    obtain ⟨⟨-, hlen, -⟩, hj⟩ := (burstOk_iff (by simp [hw]) ht).mp hok.burstOk
    exact nearer_wordDone hn hlen (hj (.inl hw)) (by simp [wteLeft, hw])
  | rxdDiscarded w hw =>
    obtain ⟨⟨-, hlen, -⟩, hj⟩ := (burstOk_iff (by simp [hw]) ht).mp hok.burstOk
    exact nearer_wordDone hn hlen (hj (.inr hw)) (by simp [wteLeft, hw])
  | rxeHolds v hw hp => exact nearer_of_rxPhase (r := b.resp) hw (by simp [hp, rxPhaseLeft])
  | rxdTaken w hw hp => exact nearer_of_rxPhase (r := b.resp) hw (by simp [hp, rxPhaseLeft])
  | stores k es r hw hp =>
    obtain ⟨⟨-, hlen, -⟩, hj⟩ := (burstOk_iff (by simp [hw]) ht).mp hok.burstOk
    rcases byteDone_cases k (wordDone .next { b with resp := r }) { b with resp := r } with ⟨hk, he⟩ | ⟨-, he⟩ <;> rw [he]
    · refine nearer_of_rxPhase (l := b.latch) hw ?_
      rw [hp]
      simp only [rxPhaseLeft]
      omega
    · obtain ⟨hcfl, hrem, hless⟩ :=
        nearer_wordDone (b := { b with resp := r }) (after := .next) hn hlen (hj (.inr hw)) (by simp [wteLeft, hw])
      exact ⟨hcfl, hrem, hless⟩
  | trigOff v hw | drainEnds v hw | txeHolds v hw | flSet v hw | trigOn v hw =>
    exact nearer_of_wte hn rfl rfl (by simp [wteLeft, hw])

theorem bytesLeft_of_burst (hn : b.wte ≠ .none) (ht : b.wte ≠ .top) :
    bytesLeft b = 2 * (b.wSize.toNat - b.wOff.toNat) := by
  unfold bytesLeft
  split
  · contradiction
  · contradiction
  · rfl

theorem callsLeft_afterCall (h : callOk b) : callsLeft { b with wte := .none, cfl := afterCall b.cfl } < callsLeft b := by
  cases hc : b.cfl with
  | sendTop | recvTop | c0Send | c0Recv | c53Hdr | c53Pay | c53Trl => simp [callsLeft, afterCall, hc]
  | _ => simp [callOk, hc] at h

/-- A move of a call that does not end the request comes nearer its end. -/
theorem WteMove.actionsLeft_lt (hm : WteMove b es b') (hn : n < 2 ^ 32) (hok : BlockOk b) (hw : b.wte ≠ .none)
    (hf : MoveFacts n b b') (hb : b'.cfl ≠ .idle) : actionsLeft n b' < actionsLeft n b := by
  refine Machine.actionsLeft_lt hn ?_
  cases hm.burstMove with
  | returns hwt hall he =>
    rw [he]
    exact .inl (callsLeft_afterCall (hok.callOk hw))
  | begins hwt hne he =>
    rw [he]
    exact .inr ⟨rfl, .inl (by simp [bytesLeft, hwt])⟩
  | inside ht hx hn' ht' hlen hoff hsize =>
    obtain ⟨hcfl, hrem, hless⟩ := hm.nearer hn hok hf ht hx hb
    refine .inr ⟨by simp only [callsLeft, hcfl, hrem], .inr ⟨?_, hless⟩⟩
    rw [bytesLeft_of_burst hn' ht', bytesLeft_of_burst hw ht, hoff, hsize]
  | ends hwx he =>
    obtain ⟨⟨hpos, -, hle⟩, -⟩ := (burstOk_iff hw (by simp [hwx])).mp hok.burstOk
    have hsum := hok.toNat_wOff_add hwx
    rw [he]
    refine .inr ⟨rfl, .inl ?_⟩
    simp only [bytesLeft, hwx, hsum]
    omega
  | givesUp he => rw [he] at hb; exact absurd rfl hb

end

/-! ## Every request answers -/

/-- Steps that always answer, and, when the measure f is known to fall with each, end. -/
theorem runTicks_answers {P : State → Prop} {D : Prop} {f : State → Nat}
    (hstep : ∀ u, P u → u.busy = true → ∃ v, tick u = .next v ∧ P v ∧ (D → v.busy = true → f v < f u)) :
    ∀ (k : Nat) (u : State), P u → ∃ t, runTicks k u = .next t ∧ (D → f u < k → t.busy = false) := by
  intro k
  induction k with
  | zero => exact fun u _ => ⟨u, rfl, fun _ hk => absurd hk (Nat.not_lt_zero _)⟩
  | succ k ih =>
    intro u hu
    cases hb : u.busy with
    | false => exact ⟨u, runTicks_idle _ hb, fun _ _ => hb⟩
    | true =>
      obtain ⟨v, hv, hPv, hless⟩ := hstep u hu hb
      obtain ⟨t, ht, hend⟩ := ih v hPv
      refine ⟨t, by rw [runTicks_busy k hb, hv, andThen_next, ht], fun hD hk => ?_⟩
      cases hbv : v.busy with
      | false =>
        rw [runTicks_idle k hbv] at ht
        cases ht
        exact hbv
      | true =>
        have hlt := hless hD hbv
        exact hend hD (by omega)

/-- What every tick of a request keeps that answers: it runs on the link, with polls left where it may count one. -/
structure AnswerRun (i : Instr) (s u : State) : Prop where
  link : LinkRun i s u
  place : u.busy = true → LengthAt s u
  budget : Budgeted u.cfg u.block

section
variable {i : Instr} {s u t v : State} {W I : List Byte} {n : Nat}

theorem answerRun_accept (i : Instr) (h : s.Ready) : AnswerRun i s (accept i.op i.buf i.size s) :=
  ⟨linkRun_accept i h,
    fun _ => ⟨by simp, by simp [ChunkPlan], _, _, requestAt_accept i h, by simp [wireDone]⟩, by simp [Budgeted, Counts]⟩

theorem pollsLeft {c : Config} (hn : c.pollLimit = some n) {p : Word} (h : pollsSpent c p = false) : p.toNat < n := by
  by_contra hle
  have hspent := (pollsSpent_iff c p).mpr ⟨n, hn, Nat.le_of_not_lt hle⟩
  rw [h] at hspent
  cases hspent

/-- The facts of an action that the measure turns on. -/
theorem moveFacts_of_act (hn : u.cfg.pollLimit = some n) (hbudget : Budgeted u.cfg u.block) (hv : act u = .next v) :
    MoveFacts n u.block v.block := by
  refine ⟨fun hc => pollsLeft hn (hbudget hc), fun hw => ctl_wte_eq_iff hw hv, fun hw hw' => ?_, fun hw hb hp => ?_⟩
  · rcases drain_phase hw hv hw' with h | ⟨hp, hg | ⟨hl, -⟩⟩
    · exact .inl h
    · exact .inr ⟨hp, .inl hg⟩
    · exact .inr ⟨hp, .inr hl⟩
  · rw [act_of_giveUp hp (.inr (.inl hw))] at hv
    cases hv
    exact hb rfl

/-- An action of a request that goes on comes nearer the request's end. -/
theorem act_actionsLeft_lt (hb : u.busy = true) (hcfg : u.cfg.wf = true) (hn : u.cfg.pollLimit = some n)
    (hok : BlockOk u.block) (hbudget : Budgeted u.cfg u.block) (hv : act u = .next v) (hbv : v.busy = true) :
    actionsLeft n v.block < actionsLeft n u.block := by
  have hlt := (Config.wf_poll hcfg hn).2
  have hgo := (State.busy_iff v).mp hbv
  obtain ⟨es, ⟨hw, hm⟩ | ⟨hw, hm⟩, -, -⟩ := act_acts hb hv
  · exact hm.actionsLeft_lt hlt hok hw hgo
  · exact hm.actionsLeft_lt hlt hok hw (moveFacts_of_act hn hbudget hv) hgo

/-- One tick of a request answers, and with limited polls it comes nearer the end. -/
theorem AnswerRun.step (h : AnswerRun i s u) (hcfg : s.cfg.wf = true) (hi : i.wellFormed = true) (hb : u.busy = true) :
    ∃ v, tick u = .next v ∧ AnswerRun i s v
      ∧ (s.cfg.pollLimit = some n → v.busy = true → actionsLeft n v.block < actionsLeft n u.block) := by
  obtain ⟨-, hplan, W, I, hat, hlen⟩ := h.place hb
  obtain ⟨t, v, htick⟩ := h.link.tick hcfg hi hat hb
  have hbt : t.busy = true := by rw [State.busy, htick.block]; exact hb
  have hcfgt : t.cfg.wf = true := htick.before.cfg ▸ hcfg
  have hbudget : Budgeted t.cfg t.block := by rw [htick.block, htick.share.only.cfg]; exact h.budget
  refine ⟨v, htick.tick, ⟨htick.after, fun hbv => ?_, act_budgeted hbt hcfgt htick.act.act⟩, fun hn hbv => ?_⟩
  · exact (htick.length hb hplan hlen).resolve_right fun hend => by rw [hend.1] at hbv; cases hbv
  · rw [← htick.block]
    exact act_actionsLeft_lt hbt hcfgt (htick.before.cfg ▸ hn) htick.before.runs.ok hbudget htick.act.act hbv

/-- The measure of a request just accepted is within the ticks it is run for. -/
theorem actionsLeft_accept (hn : n < 2 ^ 32) : actionsLeft n (accept i.op i.buf i.size s).block < tickFuel := by
  have hbytes := bytesLeft_lt (accept i.op i.buf i.size s).block
  have hburst := inBurstLeft_lt hn (accept i.op i.buf i.size s).block
  have hcalls : callsLeft (accept i.op i.buf i.size s).block = 2 ^ 36 + 16 := by simp [callsLeft]
  unfold actionsLeft tickFuel
  omega

/-- A request that the block runs answers, and ends when its polls are limited (R112, R174). -/
theorem exec_answers (hi : i.wellFormed = true) (hready : s.Ready) :
    ∃ t, exec i s = .next t ∧ (s.cfg.pollLimit ≠ none → t.busy = false) := by
  rw [exec_of_idle _ ((State.busy_false_iff s).mpr hready.cflIdle)]
  obtain ⟨t, ht, hend⟩ := runTicks_answers (D := ∃ n, s.cfg.pollLimit = some n)
    (f := fun u => actionsLeft (s.cfg.pollLimit.getD 0) u.block)
    (fun u hu hb => (hu.step (n := s.cfg.pollLimit.getD 0) hready.cfgWf hi hb).imp
      fun v hv => ⟨hv.1, hv.2.1, fun ⟨n, hn⟩ => hv.2.2 (by rw [hn]; rfl)⟩)
    tickFuel _ (answerRun_accept i hready)
  refine ⟨t, ht, fun hlim => ?_⟩
  obtain ⟨n, hn⟩ := Option.ne_none_iff_exists'.mp hlim
  refine hend ⟨n, hn⟩ (actionsLeft_accept ?_)
  rw [hn]
  exact (Config.wf_poll hready.cfgWf hn).2

end

/-- Settles O19: every tick of a request that runs answers, and the measure of the actions left bounds their number. -/
theorem everyRequestAnswersAndEndsWhenPollsAreLimited : Obligations.EveryRequestAnswersAndEndsWhenPollsAreLimited := by
  intro i s hready
  cases hi : i.wellFormed with
  | true => exact exec_answers hi hready
  | false =>
    rw [illegalRequestsLeaveThePeripheralToItself i s hi ((State.busy_false_iff s).mpr hready.cflIdle) hready.noReset,
      breathe_of_no_frame (by exact hready.frameNone), andThen_next]
    exact ⟨_, rfl, fun _ => endRequest_busy _ _⟩

end Sys2Proof.Machine

namespace Sys2Proof.Machine

/-! ## The register accesses of a burst, so far -/

/-- Whole parts, and one more. -/
theorem splitLens_add {m c n : Nat} (hc : c % m = 0) (hn : 1 ≤ n) (hmax : n ≤ m) :
    splitLens m (c + n) = splitLens m c ++ [n] := by
  obtain ⟨q, rfl⟩ := Nat.dvd_of_mod_eq_zero hc
  have hm : 0 < m := by omega
  unfold splitLens
  rw [Nat.mul_add_mod, Nat.mul_add_div hm, Nat.mul_div_cancel_left _ hm, Nat.mul_mod_right, if_pos rfl, List.append_nil]
  rcases Nat.eq_or_lt_of_le hmax with rfl | hlt
  · rw [Nat.mod_self, Nat.div_self hm, if_pos rfl, List.append_nil, List.replicate_succ']
  · rw [Nat.mod_eq_of_lt hlt, Nat.div_eq_of_lt hlt, if_neg (by omega)]; rfl

/-- One more burst of a call whose bursts so far are whole (R111). -/
theorem callShape_add {c n : Nat} (hc : c % burstMax = 0) (hn : 1 ≤ n) (hmax : n ≤ burstMax) :
    callShape (c + n) = callShape c ++ burstShape n := by
  simp [callShape, burstLens, splitLens_add hc hn hmax]

/-- The accesses of a burst up to its words in TXD (R114 to R116). -/
def setupShape : List (MmioReg × Bool) := [(.ctl, false), (.ctl, true), (.ctl, false), (.ctl, true)]

/-- The read of a read-modify-write that is about to write. -/
def ctlShape (p : Phase) : List (MmioReg × Bool) := if p = .last then [(.ctl, false)] else []

/-- The register accesses of the burst in progress so far, with the STA polls left out (R113). -/
def inBurst (b : Block) : List (MmioReg × Bool) :=
  match b.wte with
  | .none | .top => []
  | .b1TrigOff => ctlShape b.phase
  | .b2Drain | .b3Txe => [(.ctl, false), (.ctl, true)]
  | .b4Fl => [(.ctl, false), (.ctl, true)] ++ ctlShape b.phase
  | .b5Words => setupShape ++ List.replicate b.wj.toNat (.txd, true)
  | .b6TrigOn => setupShape ++ List.replicate (burstWords b) (.txd, true) ++ ctlShape b.phase
  | .b7Rx =>
    setupShape ++ List.replicate (burstWords b) (.txd, true) ++ [(.ctl, false), (.ctl, true)]
      ++ List.replicate (rxTaken b) (.rxd, false)
  | .next => burstShape b.blen.toNat

section
variable {b b' : Block} {es : List Event}

theorem inBurst_of_tx (hw : b.wte = .b5Words) :
    inBurst b = setupShape ++ List.replicate b.wj.toNat (.txd, true) := by unfold inBurst; rw [hw]

theorem inBurst_of_rx (hw : b.wte = .b7Rx) :
    inBurst b = setupShape ++ List.replicate (burstWords b) (.txd, true) ++ [(.ctl, false), (.ctl, true)]
      ++ List.replicate (rxTaken b) (.rxd, false) := by unfold inBurst; rw [hw]

theorem filterMap_shape_packed {k : Fin 4} {v : Byte} (h : PackedByte b k es v) : es.filterMap Event.shape? = [] := by
  cases h <;> rfl

theorem filterMap_shape_stored {k : Fin 4} {r : Byte} (h : StoredByte b k es r) : es.filterMap Event.shape? = [] := by
  cases h <;> rfl

/-- One more word of B5 is one more write of TXD. -/
theorem inBurst_txdWritten (hw : b.wte = .b5Words) (hlen : b.blen.toNat ≤ burstMax) (hj : b.wj.toNat < burstWords b) :
    inBurst (wordDone .b6TrigOn b) = inBurst b ++ [(.txd, true)] := by
  have hsucc := toNat_wj_succ hlen hj
  rw [inBurst_of_tx hw, List.append_assoc, ← List.replicate_succ', ← hsucc]
  rcases wordDone_cases .b6TrigOn b with ⟨-, he⟩ | ⟨hle, he⟩ <;> rw [he]
  · exact inBurst_of_tx hw
  · have hall : (b.wj + 1).toNat = burstWords b := by omega
    rw [hall]
    simp [inBurst, ctlShape, burstWords]

/-- The last action on a word of B7 leaves the burst with the reads of RXD of one word more (R119). -/
theorem inBurst_rxWordDone (hw : b.wte = .b7Rx) (hlen : b.blen.toNat ≤ burstMax) (hj : b.wj.toNat < burstWords b) :
    inBurst (wordDone .next b) = setupShape ++ List.replicate (burstWords b) (.txd, true)
      ++ [(.ctl, false), (.ctl, true)] ++ List.replicate (b.wj.toNat + 1) (.rxd, false) := by
  have hsucc := toNat_wj_succ hlen hj
  rw [← hsucc]
  rcases wordDone_cases .next b with ⟨-, he⟩ | ⟨hle, he⟩ <;> rw [he]
  · exact inBurst_of_rx hw
  · have hall : (b.wj + 1).toNat = burstWords b := by omega
    rw [hall]
    rfl

/-- What an action inside a burst adds to the shape of the burst (R113). -/
theorem WteMove.inBurst (hm : WteMove b es b') (hok : BlockOk b)
    (hctl : b.wte = .b1TrigOff ∨ b.wte = .b4Fl ∨ b.wte = .b6TrigOn → (b'.wte = b.wte ↔ b.phase ≠ .last))
    (hdrain : b.wte = .b2Drain → b'.wte = .b2Drain → b'.phase ≠ .start)
    (ht : b.wte ≠ .top) (hx : b.wte ≠ .next) (hb : b'.cfl ≠ .idle) :
    Machine.inBurst b' = Machine.inBurst b ++ es.filterMap Event.shape? := by
  have hlast : b.wte = .b1TrigOff ∨ b.wte = .b4Fl ∨ b.wte = .b6TrigOn → b'.wte ≠ b.wte → b.phase = .last :=
    fun hw hne => not_ne_iff.mp fun hp => hne ((hctl hw).mpr hp)
  cases hm with
  | callReturns hw => exact absurd hw ht
  | burstBegins hw => exact absurd hw ht
  | burstEnds hw => exact absurd hw hx
  | givesUp => exact absurd rfl hb
  | drainTakes w hw => exact absurd rfl (hdrain hw hw)
  | ctlRead v hw =>
    have hp := (hctl hw).mp rfl
    rcases hw with hw | hw | hw <;>
      simp [Machine.inBurst, hw, ctlShape, hp, burstWords, Event.shape?]
  | trigOff v hw => simp [Machine.inBurst, hw, ctlShape, hlast (.inl hw) (by simp [hw]), Event.shape?]
  | flSet v hw => simp [Machine.inBurst, hw, ctlShape, hlast (.inr (.inl hw)) (by simp [hw]), Event.shape?, setupShape]
  | trigOn v hw =>
    simp [Machine.inBurst, hw, ctlShape, hlast (.inr (.inr hw)) (by simp [hw]), Event.shape?, rxTaken, burstWords]
  | drainGoesOn v p hw => simp [Machine.inBurst, hw, Event.shape?]
  | drainEnds v hw => simp [Machine.inBurst, hw, Event.shape?]
  | waitGoesOn v p hw =>
    rcases hw with hw | ⟨hw | hw, hs, hp | hp⟩ <;> simp [Machine.inBurst, Event.shape?, rxTaken, burstWords, *]
  | txeHolds v hw => simp [Machine.inBurst, hw, Event.shape?, ctlShape]
  | dummyWordBegins v hw => simp [Machine.inBurst, hw, Event.shape?]
  | sendWordBegins v hw => simp [Machine.inBurst, hw, Event.shape?]
  | packs k es v hw hp hv =>
    obtain ⟨p, he⟩ := byteDone_last k { b with latch := setByte b.latch k v }
    rw [he, filterMap_shape_packed hv, List.append_nil, inBurst_of_tx hw]
    exact inBurst_of_tx hw
  | txdWritten hw =>
    obtain ⟨⟨-, hlen, -⟩, hj⟩ := (burstOk_iff (by simp [hw]) ht).mp hok.burstOk
    exact inBurst_txdWritten hw hlen (hj (.inl hw))
  | rxeHolds v hw hp => simp [Machine.inBurst, hw, Event.shape?, rxTaken, hp, burstWords]
  | rxdDiscarded w hw hp =>
    obtain ⟨⟨-, hlen, -⟩, hj⟩ := (burstOk_iff (by simp [hw]) ht).mp hok.burstOk
    rw [inBurst_rxWordDone hw hlen (hj (.inr hw)), inBurst_of_rx hw, rxTaken, hp, List.replicate_succ', ← List.append_assoc]
    rfl
  | rxdTaken w hw hp =>
    rw [inBurst_of_rx (b := { b with latch := w, phase := .byte 0 }) hw, inBurst_of_rx hw, rxTaken, rxTaken, hp,
      List.replicate_succ', ← List.append_assoc]
    rfl
  | stores k es r hw hp hr =>
    obtain ⟨⟨-, hlen, -⟩, hj⟩ := (burstOk_iff (by simp [hw]) ht).mp hok.burstOk
    have htaken : rxTaken b = b.wj.toNat + 1 := by rw [rxTaken, hp]
    rw [filterMap_shape_stored hr, List.append_nil, inBurst_of_rx hw]
    rw [htaken]
    rcases byteDone_cases k (wordDone .next { b with resp := r }) { b with resp := r } with ⟨hk, he⟩ | ⟨-, he⟩ <;> rw [he]
    · exact inBurst_of_rx (b := { b with resp := r, phase := .byte ⟨k.val + 1, hk⟩ }) hw
    · exact inBurst_rxWordDone (b := { b with resp := r }) hw hlen (hj (.inr hw))

end

end Sys2Proof.Machine

namespace Sys2Proof.Machine

/-! ## The register accesses of a request, so far -/

/-- The register accesses of the call in progress so far (R111). -/
def inCall (b : Block) : List (MmioReg × Bool) :=
  if b.wte = .none then [] else callShape b.wOff.toNat ++ inBurst b

/-- The register accesses of a CMD53 chunk of n bytes (R151). -/
def chunkShape (n : Nat) : List (MmioReg × Bool) := callShape hdrLen ++ callShape n ++ callShape trlLen

/-- The register accesses of the calls that the request has completed (R125, R128, R145, R151). -/
def callsDone (b : Block) : List (MmioReg × Bool) :=
  match b.cfl with
  | .c0Recv => callShape cmd0Len
  | .c0Eval => callShape cmd0Len ++ callShape cmd0RespLen
  | .c53Top | .c53Hdr => (chunkLens b.cur.toNat).flatMap chunkShape
  | .c53Pay => (chunkLens b.cur.toNat).flatMap chunkShape ++ callShape hdrLen
  | .c53Trl => (chunkLens b.cur.toNat).flatMap chunkShape ++ callShape hdrLen ++ callShape b.chunk.toNat
  | .c53Next => (chunkLens b.cur.toNat).flatMap chunkShape ++ chunkShape b.chunk.toNat
  | .finish => requestShape (decodeReq b.op b.buf b.size)
  | _ => []

theorem requestShape_cmd53 {op : BitVec 3} (h : op = 0b011#3 ∨ op = 0b100#3) (buf size : Word) :
    requestShape (decodeReq op buf size) = (chunkLens size.toNat).flatMap chunkShape := by
  rcases h with rfl | rfl <;> rfl

/-- One more chunk of a CMD53 whose chunks so far are whole (R150). -/
theorem flatMap_chunkShape_add {c n : Nat} (hc : c % chunkMax = 0) (hn : 1 ≤ n) (hmax : n ≤ chunkMax) :
    (chunkLens (c + n)).flatMap chunkShape = (chunkLens c).flatMap chunkShape ++ chunkShape n := by
  simp [chunkLens, splitLens_add hc hn hmax]

section
variable {b b' : Block} {es : List Event}

theorem inCall_of_call (hn : b.wte ≠ .none) : inCall b = callShape b.wOff.toNat ++ inBurst b := if_neg hn

/-- The moves between two bursts log nothing. -/
theorem WteMove.quiet (hm : WteMove b es b') (h : b.wte = .top ∨ b.wte = .next) : es = [] := by
  cases hm with
  | callReturns | burstBegins | burstEnds => rfl
  | ctlRead v hw | givesUp hp hw | waitGoesOn v p hw => rcases h with h | h <;> simp [h] at hw
  | _ => rcases h with h | h <;> simp_all

/-- An action of a call that goes on adds its accesses to the call's. -/
theorem WteMove.inCall (hm : WteMove b es b') (hn : b.wte ≠ .none) (hok : BlockOk b) (hplan : BurstPlan b)
    (hctl : b.wte = .b1TrigOff ∨ b.wte = .b4Fl ∨ b.wte = .b6TrigOn → (b'.wte = b.wte ↔ b.phase ≠ .last))
    (hdrain : b.wte = .b2Drain → b'.wte = .b2Drain → b'.phase ≠ .start) (hn' : b'.wte ≠ .none) (hb : b'.cfl ≠ .idle) :
    Machine.inCall b' = Machine.inCall b ++ es.filterMap Event.shape? := by
  rw [inCall_of_call hn, inCall_of_call hn']
  cases hm.burstMove with
  | returns hw hall he => rw [he] at hn'; exact absurd rfl hn'
  | givesUp he => rw [he] at hb; exact absurd rfl hb
  | begins hw hne he => simp [hm.quiet (.inl hw), he, Machine.inBurst, hw, ctlShape]
  | inside ht hx hn' ht' hlen hoff hsize => rw [hoff, hm.inBurst hok hctl hdrain ht hx hb, List.append_assoc]
  | ends hw he =>
    obtain ⟨⟨hpos, hmax, -⟩, -⟩ := (burstOk_iff hn (by simp [hw])).mp hok.burstOk
    obtain ⟨hoff, -⟩ := (burstPlan_iff hn (by simp [hw])).mp hplan
    have hsum := hok.toNat_wOff_add hw
    rw [hm.quiet (.inr hw), he]
    simp only [Machine.inBurst, hw, hsum, callShape_add hoff hpos hmax, List.filterMap_nil, List.append_nil]

/-- A call that returns has made the accesses of its bursts (R111). -/
theorem callsDone_afterCall (h : BlockOk b) (hn : b.wte ≠ .none) :
    callsDone { b with wte := .none, cfl := afterCall b.cfl } = callsDone b ++ callShape b.wSize.toNat := by
  have hcall := h.callOk hn
  have hreq := h.requestOk
  cases hc : b.cfl with
  | sendTop =>
    simp only [callOk, requestOk, hc] at hcall hreq
    obtain ⟨-, -, -, hsize⟩ := hcall
    simp [callsDone, afterCall, hc, hreq.1, hsize, decodeReq, requestShape]
  | recvTop =>
    simp only [callOk, requestOk, hc] at hcall hreq
    obtain ⟨-, -, -, hsize⟩ := hcall
    simp [callsDone, afterCall, hc, hreq.1, hsize, decodeReq, requestShape]
  | c0Send | c0Recv | c53Hdr =>
    simp only [callOk, hc] at hcall
    obtain ⟨-, -, hsize⟩ := hcall
    simp [callsDone, afterCall, hc, hsize, cmd0Len, cmd0RespLen, hdrLen]
  | c53Pay =>
    simp only [callOk, hc] at hcall
    obtain ⟨-, -, -, hsize⟩ := hcall
    have hchunk : b.wSize.toNat = b.chunk.toNat := by rw [hsize, toNat_chunk]
    simp [callsDone, afterCall, hc, hchunk]
  | c53Trl =>
    simp only [callOk, hc] at hcall
    obtain ⟨-, -, hsize⟩ := hcall
    simp [callsDone, afterCall, hc, hsize, chunkShape, trlLen]
  | _ => simp only [callOk, hc] at hcall

/-- The moves between the calls access no register, and the request ends, unless CHECK refuses it, with its accesses
made. -/
theorem CflMove.callsDone (hm : CflMove b es b') (h : BlockOk b) (hp : ChunkPlan b) :
    es.filterMap Event.shape? = [] ∧
    (b'.cfl ≠ .idle ∧ Machine.callsDone b' = Machine.callsDone b
    ∨ b'.cfl = .idle ∧ (b'.status = .ok ∨ b'.status = .protocolMismatch →
        Machine.callsDone b = requestShape (decodeReq b.op b.buf b.size))) := by
  have hreq := h.requestOk
  have hchunk := h.chunkOk
  cases hm with
  | ends st he =>
    refine ⟨rfl, .inr ⟨rfl, fun hst => ?_⟩⟩
    rcases he with ⟨-, rfl⟩ | ⟨hc, -⟩ | ⟨hc, -⟩
    · rcases hst with hst | hst <;> cases hst
    · simp only [Machine.requestOk, hc] at hreq
      simp [Machine.callsDone, hc, hreq, decodeReq, requestShape]
    · simp [Machine.callsDone, hc]
  | bufferChecked c hc hb hop =>
    rcases hop with ⟨-, rfl⟩ | ⟨-, rfl⟩ <;> simp [Machine.callsDone, hc]
  | cmd0Checked hc => simp [Machine.callsDone, hc]
  | cmd53Checked hc => simp [Machine.callsDone, hc, chunkLens, splitLens]
  | calls d w base n hcall =>
    refine ⟨rfl, .inl ⟨fun hi => ?_, rfl⟩⟩
    have hi' : b.cfl = .idle := hi
    simp [Machine.callOk, hi'] at hcall
  | chunkBegins hc hrem => exact ⟨rfl, .inl ⟨by simp, by simp [Machine.callsDone, hc]⟩⟩
  | noChunkLeft hc hrem =>
    simp only [Machine.requestOk, Machine.chunkOk, hc] at hreq hchunk
    have hcur : b.cur.toNat = b.size.toNat := by rw [← hchunk, hrem]; rfl
    exact ⟨rfl, .inl ⟨by simp, by simp [Machine.callsDone, hc, requestShape_cmd53 hreq.1, hcur]⟩⟩
  | chunkEnds hc =>
    simp only [Machine.chunkOk, ChunkPlan, hc] at hchunk hp
    obtain ⟨hsum, hpos, hmax, hle⟩ := hchunk
    have hcur : (b.cur + b.chunk.setWidth 32).toNat = b.cur.toNat + b.chunk.toNat := by
      have hlt := b.size.isLt
      rw [BitVec.toNat_add, toNat_chunk]; omega
    exact ⟨rfl, .inl ⟨by simp, by simp [Machine.callsDone, hc, hcur, flatMap_chunkShape_add hp.1 hpos hmax]⟩⟩

/-- An action that makes no call return keeps the calls completed. -/
theorem callsDone_of_goesOn {t v : State} (ha : Machine.act t = .next v) (hm : WteMove t.block es v.block)
    (hc : v.block.cfl = t.block.cfl) : Machine.callsDone v.block = Machine.callsDone t.block := by
  have hk := hm.keeps
  have honly := act_actOnly ha
  unfold Machine.callsDone
  rw [hc, hk.cur, hk.chunk, honly.op, honly.buf, honly.size]

/-- B7 is left for the end of its burst, or of the request. -/
theorem WteMove.wte_of_rx (hm : WteMove b es b') (hw : b.wte = .b7Rx) (hb : b'.cfl ≠ .idle) :
    b'.wte = .b7Rx ∨ b'.wte = .next := by
  have hword : ∀ c : Block, c.wte = .b7Rx → (wordDone .next c).wte = .b7Rx ∨ (wordDone .next c).wte = .next := by
    intro c hc
    rcases wordDone_cases .next c with ⟨-, he⟩ | ⟨-, he⟩ <;> rw [he]
    · exact .inl hc
    · exact .inr rfl
  cases hm with
  | givesUp => exact absurd rfl hb
  | rxeHolds | rxdTaken | waitGoesOn => exact .inl hw
  | rxdDiscarded => exact hword b hw
  | stores k es r =>
    rcases byteDone_cases k (wordDone .next { b with resp := r }) { b with resp := r } with ⟨_, he⟩ | ⟨_, he⟩ <;> rw [he]
    · exact .inl hw
    · exact hword { b with resp := r } hw
  | ctlRead v hw' => rcases hw' with hw' | hw' | hw' <;> exact absurd (hw'.symm.trans hw) (by simp)
  | callReturns hw' | burstBegins hw' | trigOff _ hw' | drainGoesOn _ _ hw' | drainTakes _ hw' | drainEnds _ hw'
  | txeHolds _ hw' | flSet _ hw' | dummyWordBegins _ hw' | sendWordBegins _ hw' | packs _ _ _ hw' | txdWritten hw'
  | trigOn _ hw' | burstEnds hw' => exact absurd (hw'.symm.trans hw) (by simp)

end

/-! ## The run of a request -/

section
variable {i : Instr} {s u t v : State} {W I : List Byte}

/-- What every tick keeps of a request made from an empty RX FIFO. -/
structure ShapeAt (s u : State) : Prop where
  length : LengthAt s u
  bursts : BurstPlan u.block
  rx : u.block.wte ≠ .b7Rx → u.periph.rx = []
  shape : u.mmioShape = s.mmioShape ++ callsDone u.block ++ inCall u.block

/-- With no stale word the drain takes none. -/
theorem RequestAt.phase_ne_last (h : RequestAt W I u) (hw : u.block.wte = .b2Drain) (hr : u.periph.rx = []) :
    u.block.phase ≠ .last := by
  cases h with
  | between hn => exact absurd (hn.symm.trans hw) (by simp)
  | calling _ hcall =>
    obtain ⟨cs, ds, hat, -⟩ := hcall
    cases hat with
    | drain _ _ _ hp => exact fun hl => hp hl hr
    | before hw' => rcases hw' with hw' | hw' | hw' <;> exact absurd (hw'.symm.trans hw) (by simp)
    | txe hw' | fl hw' | words hw' | trigOn hw' | rx hw' | done hw' => exact absurd (hw'.symm.trans hw) (by simp)

/-- The peripheral's share leaves the shape so far. -/
theorem ShapeAt.share (h : ShapeAt s u) (k : RequestTick i s W I u t v) :
    BurstPlan t.block ∧ (t.block.wte ≠ .b7Rx → t.periph.rx = [])
      ∧ t.mmioShape = s.mmioShape ++ callsDone t.block ++ inCall t.block := by
  have honly := k.share.only
  refine ⟨honly.block ▸ h.bursts, fun hw => ?_, ?_⟩
  · rw [honly.block] at hw
    rw [k.unmoved hw]
    exact h.rx hw
  · rw [State.mmioShape, honly.filterMap_trace fun _ _ => rfl, honly.block]
    exact h.shape

theorem inCall_of_none {b : Block} (h : b.wte = .none) : inCall b = [] := if_pos h

/-- The action of a tick keeps the RX FIFO empty outside B7. -/
theorem RequestTick.rx_nil (h : RequestTick i s W I u t v) (hb : t.busy = true)
    (hr : t.block.wte ≠ .b7Rx → t.periph.rx = []) (hv : LengthAt s v) (hw : v.block.wte ≠ .b7Rx) :
    v.periph.rx = [] := by
  obtain ⟨es, hm, -, hacc⟩ := act_acts hb h.act.act
  by_cases hwt : t.block.wte = .b7Rx
  · obtain ⟨hgo, -, W', I', hat, -⟩ := hv
    obtain ⟨-, hm⟩ := hm.resolve_left fun hm => by simp [hm.1] at hwt
    have hnext := (hm.wte_of_rx hwt hgo).resolve_left hw
    cases hat with
    | between hn => rw [hnext] at hn; cases hn
    | calling _ hcall =>
      obtain ⟨cs, ds, hat, -⟩ := hcall
      exact hat.rx_nil hnext
  · exact hacc.rx_nil (hr hwt)

/-- One tick of a request adds its accesses to the shape so far, and an end with no late wait and no refusal comes when
the shape is whole (R113). -/
theorem RequestTick.shape (h : RequestTick i s W I u t v) (hb : u.busy = true) (hu : ShapeAt s u) (hp : ChunkPlan u.block)
    (hlen : W.length = s.wireOut.length + wireDone u.block) :
    ShapeAt s v ∨ v.busy = false ∧ (v.block.status = .ok ∨ v.block.status = .protocolMismatch →
      v.mmioShape = s.mmioShape ++ requestShape i) := by
  have hbt : t.busy = true := by rw [State.busy, h.block]; exact hb
  obtain ⟨hplan, hrx, hshape⟩ := hu.share h
  have hpt : ChunkPlan t.block := h.block ▸ hp
  have hrun := h.before.runs
  obtain ⟨es, hm, htrace, -⟩ := act_acts hbt h.act.act
  have hadd : v.mmioShape = t.mmioShape ++ es.filterMap Event.shape? := by
    rw [State.mmioShape, htrace, List.filterMap_append]; rfl
  have hgo : LengthAt s v → v.mmioShape = s.mmioShape ++ callsDone v.block ++ inCall v.block → ShapeAt s v := fun hl hs =>
    ⟨hl, hm.keeps_plan hrun.ok hplan, h.rx_nil hbt hrx hl, hs⟩
  have hlength : v.block.cfl ≠ .idle → LengthAt s v := fun hc =>
    (h.length hb hp hlen).resolve_right fun hend => hc ((State.busy_false_iff v).mp hend.1)
  rcases hm with ⟨hw, hm⟩ | ⟨hn, hm⟩
  · obtain ⟨hquiet, hmove⟩ := hm.callsDone hrun.ok hpt
    rw [hquiet, List.append_nil, hshape, inCall_of_none hw, List.append_nil] at hadd
    rcases hmove with ⟨hc, hdone⟩ | ⟨hc, hdone⟩
    · have hnone : inCall v.block = [] := by
        rcases hm.wte hw with hw' | ⟨hw', hoff⟩
        · exact inCall_of_none hw'
        · rw [inCall_of_call (by simp [hw']), hoff, inBurst, hw']; rfl
      exact .inl (hgo (hlength hc) (by rw [hadd, hdone, hnone, List.append_nil]))
    · refine .inr ⟨(State.busy_false_iff v).mpr hc, fun hst => ?_⟩
      rw [hadd, hdone hst, hrun.op, hrun.buf, hrun.size, decodeReq_fields]
  · have hct := callOk_afterCall (hrun.ok.callOk hn)
    rcases h.act.outcome with ⟨hw, -⟩ | ⟨-, hcall⟩
    · exact absurd hw hn
    · cases hcall with
      | goesOn _ hnv hcfl =>
        have hc : v.block.cfl ≠ .idle := hcfl ▸ hct.1
        have hdrain : t.block.wte = .b2Drain → v.block.wte = .b2Drain → v.block.phase ≠ .start := fun hw hw' => by
          rcases drain_phase hw h.act.act hw' with ⟨hl, -⟩ | ⟨-, hp | ⟨hp, -⟩⟩
          · exact absurd hl (h.place.phase_ne_last hw (hrx (by simp [hw])))
          · simp [hp]
          · simp [hp]
        refine .inl (hgo (hlength hc) ?_)
        rw [hadd, hshape, callsDone_of_goesOn h.act.act hm hcfl,
          hm.inCall hn hrun.ok hplan (fun hw => ctl_wte_eq_iff hw h.act.act) hdrain hnv hc]
        simp only [List.append_assoc]
      | returns cs ds hwt _ _ hall hv =>
        have hin : inCall t.block = callShape t.block.wSize.toNat := by
          rw [inCall_of_call hn, hall, inBurst, hwt, List.append_nil]
        have hbv : v.block = { t.block with wte := .none, cfl := afterCall t.block.cfl } := by rw [hv]; rfl
        refine .inl (hgo (hlength (by rw [hbv]; exact hct.2)) ?_)
        rw [hadd, hshape, hm.quiet (.inl hwt), hin, hbv, callsDone_afterCall hrun.ok hn, inCall_of_none rfl]
        simp
      | givesUp _ hv =>
        refine .inr ⟨by rw [hv]; rfl, fun hst => ?_⟩
        rw [hv] at hst
        rcases hst with hst | hst <;> cases hst

end

/-- A request that the block runs, from an empty RX FIFO, whose waits all succeed makes its accesses in order (R113). -/
theorem exec_shape {i : Instr} {s t : State} (hi : i.wellFormed = true) (hready : s.Ready) (hrx : s.periph.rx = [])
    (h : exec i s = .next t) (hend : t.busy = false) (hst : t.block.status = .ok ∨ t.block.status = .protocolMismatch) :
    t.mmioShape = s.mmioShape ++ requestShape i := by
  rw [exec_of_idle _ ((State.busy_false_iff s).mpr hready.cflIdle)] at h
  refine (runTicks_keeps (fun u => LinkRun i s u ∧ (u.busy = true → ShapeAt s u) ∧ (u.busy = false →
    u.block.status = .ok ∨ u.block.status = .protocolMismatch → u.mmioShape = s.mmioShape ++ requestShape i)) ?_ _ _ t
    ⟨linkRun_accept i hready, fun _ => ⟨?_, by simp [BurstPlan], by simp [hrx], ?_⟩, by simp⟩ h).2.2 hend hst
  · rintro u v ⟨hrun, hat, -⟩ hb hv
    have hu := hat hb
    obtain ⟨-, hp, W, I, hplace, hlen⟩ := hu.length
    obtain ⟨t, w, htick⟩ := hrun.tick hready.cfgWf hi hplace hb
    obtain rfl : v = w := Host.Outcome.next.inj (hv.symm.trans htick.tick)
    refine ⟨htick.after, ?_⟩
    rcases htick.shape hb hu hp hlen with hat | ⟨hbv, hdone⟩
    · exact ⟨fun _ => hat, fun hbv => absurd ((State.busy_false_iff v).mp hbv) hat.length.1⟩
    · exact ⟨fun hb => absurd hb (by simp [hbv]), fun _ => hdone⟩
  · exact ⟨by simp, by simp [ChunkPlan], _, _, requestAt_accept i hready, by simp [wireDone]⟩
  · rw [inCall_of_none (by simp), State.mmioShape, State.mmioShape, accept_trace]
    simp [callsDone]

/-- Settles O39: every tick adds its accesses to the shape so far, and CHECK refuses what the block does not run. -/
theorem requestsMakeTheirRegisterAccessesInOrder : Obligations.RequestsMakeTheirRegisterAccessesInOrder := by
  intro i s t hready hrx h hend hst
  cases hi : i.wellFormed with
  | true => exact exec_shape hi hready hrx h hend hst
  | false =>
    have hiff := (illegalExactlyWhenNotWellFormed i s t ((State.busy_false_iff s).mpr hready.cflIdle) hready.noReset h
      hend).1
    rw [hiff.mpr hi] at hst
    rcases hst with hst | hst <;> cases hst

end Sys2Proof.Machine

namespace Sys2Proof.Machine

/-! ## The link bytes of a CMD53, chunk by chunk -/

/-- The link bytes of the chunks that the first c payload bytes make up (R158). -/
def chunksImage (read : Bool) (data : List Byte) (c : Nat) : List Byte :=
  (chunkLens c).zipIdx.flatMap fun p =>
    (header read (BitVec.ofNat 9 p.1)).toList ++ (data.drop (chunkMax * p.2)).take p.1 ++ trailer read

theorem cmd53Image_eq (read : Bool) (data : List Byte) :
    cmd53Image read data = chunksImage read data data.length := rfl

/-- One more chunk after whole ones is numbered by the whole chunks before it. -/
theorem zipIdx_chunkLens_add {c n : Nat} (hc : c % chunkMax = 0) (hn : 1 ≤ n) (hmax : n ≤ chunkMax) :
    (chunkLens (c + n)).zipIdx = (chunkLens c).zipIdx ++ [(n, c / chunkMax)] := by
  have hlen : (chunkLens c).length = c / chunkMax := by simp [chunkLens, splitLens, hc]
  rw [chunkLens, splitLens_add hc hn hmax, ← chunkLens, List.zipIdx_append, hlen, Nat.zero_add]; rfl

/-- One more chunk after whole ones is its header, its part of the payload and its trailer (R151, R158). -/
theorem chunksImage_add (read : Bool) (data : List Byte) {c n : Nat} (hc : c % chunkMax = 0) (hn : 1 ≤ n)
    (hmax : n ≤ chunkMax) :
    chunksImage read data (c + n) = chunksImage read data c ++ (header read (BitVec.ofNat 9 n)).toList
      ++ (data.drop c).take n ++ trailer read := by
  have hwhole : chunkMax * (c / chunkMax) = c := Nat.mul_div_cancel' (Nat.dvd_of_mod_eq_zero hc)
  simp [chunksImage, zipIdx_chunkLens_add hc hn hmax, hwhole]

/-- Where byte x of the payload stands among the link's bytes of a CMD53 (R151). -/
def payloadPos (x : Nat) : Nat := (chunkMax + chunkOverhead) * (x / chunkMax) + hdrLen + x % chunkMax

/-- Byte x of a chunk of n bytes after c whole ones. -/
theorem payloadPos_add {c x : Nat} (hc : c % chunkMax = 0) (hx : x < chunkMax) :
    payloadPos (c + x) = (chunkMax + chunkOverhead) * (c / chunkMax) + hdrLen + x := by
  have hdiv : (c + x) / chunkMax = c / chunkMax := by unfold chunkMax at *; omega
  have hmod : (c + x) % chunkMax = x := by unfold chunkMax at *; omega
  rw [payloadPos, hdiv, hmod]

theorem cmd53Payload_add (link : List Byte) {c n : Nat} (hc : c % chunkMax = 0) (hn : 1 ≤ n) (hmax : n ≤ chunkMax) :
    cmd53Payload (c + n) link = cmd53Payload c link
      ++ (link.drop ((chunkMax + chunkOverhead) * (c / chunkMax) + hdrLen)).take n := by
  simp [cmd53Payload, zipIdx_chunkLens_add hc hn hmax]

/-- The bytes of a chunk come after those of the chunks before it. -/
theorem payloadPos_lt {c x : Nat} (hc : c % chunkMax = 0) (hx : x < c) :
    payloadPos x < (chunkMax + chunkOverhead) * (c / chunkMax) + hdrLen := by
  unfold payloadPos chunkMax chunkOverhead hdrLen trlLen at *
  omega

/-- Byte x of the payload part is the link's byte at its place, as far as the link goes (R151, R157). -/
theorem getElem?_cmd53Payload (link : List Byte) (n : Nat) :
    (cmd53Payload n link).length ≤ n ∧ ∀ x < n, (cmd53Payload n link)[x]? = link[payloadPos x]? := by
  induction n using Nat.strong_induction_on with
  | _ n ih =>
    rcases Nat.eq_zero_or_pos n with rfl | hpos
    · exact ⟨by simp [cmd53Payload, chunkLens, splitLens], fun x hx => absurd hx (Nat.not_lt_zero x)⟩
    obtain ⟨c, m, rfl, hc, hm, hmax⟩ : ∃ c m, n = c + m ∧ c % chunkMax = 0 ∧ 1 ≤ m ∧ m ≤ chunkMax :=
      ⟨chunkMax * ((n - 1) / chunkMax), n - chunkMax * ((n - 1) / chunkMax), by unfold chunkMax; omega⟩
    obtain ⟨hlen, hget⟩ := ih c (by omega)
    rw [cmd53Payload_add link hc hm hmax]
    refine ⟨by rw [List.length_append, List.length_take]; omega, fun x hx => ?_⟩
    rcases Nat.lt_or_eq_of_le hlen with hshort | hfull
    · have hend : link.length ≤ (chunkMax + chunkOverhead) * (c / chunkMax) + hdrLen := by
        have hnone := hget _ hshort
        rw [List.getElem?_eq_none le_rfl] at hnone
        exact (List.getElem?_eq_none_iff.mp hnone.symm).trans (payloadPos_lt hc hshort).le
      rw [List.drop_of_length_le hend, List.take_nil, List.append_nil]
      by_cases hxc : x < c
      · exact hget x hxc
      · obtain ⟨y, rfl⟩ := Nat.exists_eq_add_of_le (Nat.le_of_not_lt hxc)
        rw [payloadPos_add hc (by omega), List.getElem?_eq_none (by omega), List.getElem?_eq_none (by omega)]
    · by_cases hxc : x < c
      · rw [List.getElem?_append_left (by omega)]
        exact hget x hxc
      · obtain ⟨y, rfl⟩ := Nat.exists_eq_add_of_le (Nat.le_of_not_lt hxc)
        rw [List.getElem?_append_right (by omega), hfull, Nat.add_sub_cancel_left, List.getElem?_take_of_lt (by omega),
          List.getElem?_drop, payloadPos_add hc (by omega)]

end Sys2Proof.Machine

namespace Sys2Proof.Machine

/-! ## A CMD53, call by call -/

/-- A CMD53R, or a CMD53W of a buffer that no other agent writes meanwhile (R74). -/
inductive Cmd53 (s : State) : Instr → Prop
  | read (buf size : Word) : Cmd53 s (.cmd53r buf size)
  | write (buf size : Word) (h : s.env.race = false) : Cmd53 s (.cmd53w buf size)

/-- The payload part of a CMD53's link bytes: the buffer, or as many bytes 0xFF (R121, R151). -/
def cmd53Data (s : State) : Instr → List Byte
  | .cmd53w buf size => s.mem.bytes buf.toNat size.toNat
  | i => List.replicate i.size.toNat 0xFF

/-- The request is CMD53R (R81). -/
def readsLink (i : Instr) : Bool := decide (i.op = 0b011#3)

/-- What a CMD53 puts on the link (R158). -/
def requestImage (s : State) (i : Instr) : List Byte := cmd53Image (readsLink i) (cmd53Data s i)

theorem length_cmd53Data (s : State) (i : Instr) : (cmd53Data s i).length = i.size.toNat := by
  cases i with
  | cmd53w buf size => exact length_bytes _ _ _
  | _ => simp [cmd53Data]

/-- The op codes of CMD53R and CMD53W (R81). -/
def Cmd53Op (op : BitVec 3) : Prop := op = 0b011#3 ∨ op = 0b100#3

theorem Cmd53.op {s : State} {i : Instr} (h : Cmd53 s i) : Cmd53Op i.op := by
  cases h with
  | read => exact .inl rfl
  | write => exact .inr rfl

theorem RunsRequest.isRead {i : Instr} {b : Block} (h : RunsRequest i b) : isRead b = readsLink i := by
  rw [Machine.isRead, h.op, readsLink]

/-- The bytes that the call of a CMD53 in this state puts on the link (R151). -/
def callImage (read : Bool) (data : List Byte) (b : Block) : List Byte :=
  match b.cfl with
  | .c53Hdr => (header read b.chunk).toList
  | .c53Pay => (data.drop b.cur.toNat).take b.chunk.toNat
  | .c53Trl => trailer read
  | _ => []

/-- What the calls that a CMD53 has completed have put on the link (R150, R151). -/
def imageDone (read : Bool) (data : List Byte) (b : Block) : List Byte :=
  match b.cfl with
  | .c53Top | .c53Hdr => chunksImage read data b.cur.toNat
  | .c53Pay => chunksImage read data b.cur.toNat ++ (header read b.chunk).toList
  | .c53Trl =>
    chunksImage read data b.cur.toNat ++ (header read b.chunk).toList ++ (data.drop b.cur.toNat).take b.chunk.toNat
  | .c53Next =>
    chunksImage read data b.cur.toNat ++ (header read b.chunk).toList ++ (data.drop b.cur.toNat).take b.chunk.toNat
      ++ trailer read
  | .finish => cmd53Image read data
  | _ => []

/-- The header of the chunk is staged when its call is made (R93, R98, R151). -/
def HeaderStaged (b : Block) : Prop := b.cfl = .c53Hdr → b.hdr = header (isRead b) b.chunk

section
variable {read : Bool} {data : List Byte} {b b' : Block} {es : List Event}

/-- A call that returns has put its bytes on the link. -/
theorem imageDone_afterCall (hok : BlockOk b) (hn : b.wte ≠ .none) (hop : Cmd53Op b.op) :
    HeaderStaged { b with wte := .none, cfl := afterCall b.cfl }
      ∧ imageDone read data { b with wte := .none, cfl := afterCall b.cfl }
        = imageDone read data b ++ callImage read data b := by
  have hcall := hok.callOk hn
  have hreq := hok.requestOk
  cases hc : b.cfl with
  | c53Hdr | c53Pay | c53Trl => simp [HeaderStaged, imageDone, callImage, afterCall, hc]
  | sendTop | recvTop | c0Send | c0Recv => rcases hop with hop | hop <;> simp [Machine.requestOk, hc, hop] at hreq
  | _ => simp only [Machine.callOk, hc] at hcall

/-- The moves between the calls of a CMD53 put nothing on the link; CHECK refuses it, or it ends OK with its whole image
there. -/
theorem CflMove.imageDone (hm : CflMove b es b') (hok : BlockOk b) (hp : ChunkPlan b) (hop : Cmd53Op b.op)
    (hst : HeaderStaged b) (hlen : data.length = b.size.toNat) :
    b'.cfl ≠ .idle ∧ HeaderStaged b' ∧ Machine.imageDone read data b' = Machine.imageDone read data b
    ∨ b'.cfl = .idle ∧ (b'.status = .illegalRequest
        ∨ b'.status = .ok ∧ Machine.imageDone read data b = cmd53Image read data) := by
  have hreq := hok.requestOk
  have hchunk := hok.chunkOk
  cases hm with
  | ends st he =>
    refine .inr ⟨rfl, ?_⟩
    rcases he with ⟨-, rfl⟩ | ⟨hc, -⟩ | ⟨hc, rfl⟩
    · exact .inl rfl
    · rcases hop with hop | hop <;> simp [Machine.requestOk, hc, hop] at hreq
    · exact .inr ⟨rfl, by simp [Machine.imageDone, hc]⟩
  | bufferChecked c hc hb hop' => rcases hop with hop | hop <;> simp [hop] at hop'
  | cmd0Checked hc hop' => rcases hop with hop | hop <;> simp [hop] at hop'
  | cmd53Checked hc =>
    exact .inl ⟨by simp, by simp [HeaderStaged], by simp [Machine.imageDone, chunksImage, chunkLens, splitLens, hc]⟩
  | calls d w base n hcall =>
    refine .inl ⟨fun hi => ?_, hst, rfl⟩
    have hi' : b.cfl = .idle := hi
    simp [Machine.callOk, hi'] at hcall
  | chunkBegins hc => exact .inl ⟨by simp, fun _ => rfl, by simp [Machine.imageDone, hc]⟩
  | noChunkLeft hc hrem =>
    simp only [Machine.chunkOk, hc, hrem] at hchunk
    have hcur : data.length = b.cur.toNat := by rw [hlen]; exact hchunk.symm
    exact .inl ⟨by simp, by simp [HeaderStaged], by simp [Machine.imageDone, hc, cmd53Image_eq, hcur]⟩
  | chunkEnds hc =>
    simp only [Machine.chunkOk, ChunkPlan, hc] at hchunk hp
    obtain ⟨hsum, hpos, hmax, hle⟩ := hchunk
    have hcur : (b.cur + b.chunk.setWidth 32).toNat = b.cur.toNat + b.chunk.toNat := by
      have hlt := b.size.isLt
      rw [BitVec.toNat_add, toNat_chunk]; omega
    exact .inl ⟨by simp, by simp [HeaderStaged],
      by simp [Machine.imageDone, hc, hcur, chunksImage_add read data hp.1 hpos hmax]⟩

/-- An action that makes no call return keeps what the calls completed have put on the link. -/
theorem imageDone_of_goesOn {t v : State} (ha : Machine.act t = .next v) (hm : WteMove t.block es v.block)
    (hc : v.block.cfl = t.block.cfl) : Machine.imageDone read data v.block = Machine.imageDone read data t.block
      ∧ (HeaderStaged t.block → HeaderStaged v.block) := by
  have hk := hm.keeps
  have honly := act_actOnly ha
  unfold Machine.imageDone HeaderStaged isRead
  rw [hc, hk.cur, hk.chunk, hk.hdr, honly.op]
  exact ⟨rfl, id⟩

end

/-! ### A bound on the ticks of a request -/

/-- A bound on the ticks left of a request under a healthy peripheral: its calls to come, then the call in progress. -/
def requestLeft (u : State) : Nat :=
  callsLeft u.block * 2 ^ 50 + if u.block.wte = .none then 2 * u.periph.rx.length + 2 ^ 49 else callLeft u

section
variable {b b' : Block} {es : List Event} {i : Instr} {s u t v : State} {W I : List Byte}

/-- A move between the calls brings the request nearer its end, or makes a call. -/
theorem CflMove.callsLeft_lt (hm : CflMove b es b') (hok : BlockOk b) (hw : b.wte = .none) (hgo : b'.cfl ≠ .idle) :
    b'.wte = .none ∧ callsLeft b' < callsLeft b
    ∨ b'.wte = .top ∧ b'.phase = .start ∧ callsLeft b' = callsLeft b := by
  have hchunk := hok.chunkOk
  cases hm with
  | ends => exact absurd rfl hgo
  | calls => exact .inr ⟨rfl, rfl, rfl⟩
  | bufferChecked c hc hbad h => rcases h with ⟨-, rfl⟩ | ⟨-, rfl⟩ <;> simp [callsLeft, hc, hw]
  | cmd53Checked hc =>
    have hsize := b.size.isLt
    refine .inl ⟨hw, ?_⟩
    simp only [callsLeft, hc]
    omega
  | noChunkLeft hc => exact .inl ⟨hw, by simp only [callsLeft, hc]; omega⟩
  | chunkEnds hc =>
    simp only [Machine.chunkOk, hc] at hchunk
    obtain ⟨-, hpos, -, hle⟩ := hchunk
    have hrem : (b.rem - b.chunk.setWidth 32).toNat = b.rem.toNat - b.chunk.toNat := by
      rw [BitVec.toNat_sub_of_le (by rw [BitVec.le_def, toNat_chunk]; exact hle), toNat_chunk]
    refine .inl ⟨hw, ?_⟩
    simp only [callsLeft, hc, hrem]
    omega
  | cmd0Checked hc | chunkBegins hc => exact .inl ⟨hw, by simp [callsLeft, hc]⟩

/-- A move between the calls leaves no wait, and brings the request nearer its end. -/
theorem timed_of_own (hm : CflMove u.block es v.block) (k : OwnMove u v) (hcfg : v.cfg = u.cfg) (hok : BlockOk u.block)
    (hw : u.block.wte = .none) (hgo : v.block.cfl ≠ .idle) (ht : Timed u) :
    Timed v ∧ requestLeft v < requestLeft u := by
  have hstale : v.staleFits := by rw [State.staleFits, hcfg, k.periph]; exact ht.2.stale (.inl hw)
  have hhealthy : v.healthy := by rw [State.healthy, k.env]; exact ht.1
  rcases hm.callsLeft_lt hok hw hgo with ⟨hwv, hless⟩ | ⟨hwv, hphase, hsame⟩
  · refine ⟨⟨hhealthy, by simp [hwv], fun _ => hstale, by simp [hwv], by simp [hwv]⟩, ?_⟩
    simp only [requestLeft, hw, hwv, k.periph, if_true]
    omega
  · refine ⟨⟨hhealthy, by simp [hphase], fun _ => hstale, by simp [hwv], by simp [hwv]⟩, ?_⟩
    have hsize := v.block.wSize.isLt
    simp only [requestLeft, callLeft, burstLeft, hw, hwv, hsame, k.periph, if_true]
    simp
    omega

/-- A tick that goes on with a call shortens the request. -/
theorem requestLeft_of_callLeft (hu : u.block.wte ≠ .none) (hv : v.block.wte ≠ .none)
    (hc : callsLeft v.block = callsLeft u.block) (h : callLeft v < callLeft u) : requestLeft v < requestLeft u := by
  rw [requestLeft, requestLeft, if_neg hu, if_neg hv, hc]
  omega

/-- A tick at which a call returns leaves no wait, and shortens the request. -/
theorem RequestTick.timed_afterCall (h : RequestTick i s W I u t v) (hw : t.block.wte = .top) (hcall : callOk t.block)
    (hv : v = t.withBlock { t.block with wte := .none, cfl := afterCall t.block.cfl }) (ht : Timed u) :
    Timed v ∧ requestLeft v < requestLeft u := by
  refine ⟨h.timed_returns hw hv ht, ?_⟩
  obtain rfl := h.unmoved (by simp [← h.block, hw])
  have hless := callsLeft_afterCall hcall
  subst hv
  simp only [requestLeft, callLeft, burstLeft, hw, State.withBlock_block, State.withBlock_periph]
  simp
  omega

end

end Sys2Proof.Machine

namespace Sys2Proof.Machine

/-! ### A tick of a CMD53 -/

/-- What every tick of a CMD53 keeps beside its place, from the state s it was made in. -/
structure Cmd53Run (i : Instr) (s u : State) : Prop where
  link : LinkRun i s u
  race : u.env.race = s.env.race

/-- Where a CMD53 that runs stands (R150, R151): its completed calls have exchanged their bytes. -/
structure Cmd53At (i : Instr) (s u : State) : Prop where
  running : u.block.cfl ≠ .idle
  plan : ChunkPlan u.block
  staged : HeaderStaged u.block
  place : ∃ ds : List Byte, ds.length = wireDone u.block
    ∧ RequestAt (s.wireOut ++ imageDone (readsLink i) (cmd53Data s i) u.block) (s.wireIn ++ ds) u

/-- A CMD53 whose waits all succeeded has ended (R150). -/
structure Cmd53End (i : Instr) (s t : State) : Prop where
  busy : t.busy = false
  status : t.block.status = .ok
  out : t.wireOut = s.wireOut ++ requestImage s i
  inn : ∃ ds : List Byte, ds.length = wireLength i ∧ t.wireIn = s.wireIn ++ ds

/-- What one tick of a CMD53 leads to: it goes on, it has ended with all its waits succeeded, or a wait was late. -/
inductive Cmd53Step (i : Instr) (s u v : State) : Prop
  | goesOn (hat : Cmd53At i s v) (ht : Timed u → Timed v ∧ requestLeft v < requestLeft u)
  | ends (h : Cmd53End i s v)
  | late (hb : v.busy = false) (hs : v.block.status = .deviceNotResponding) (ht : ¬ Timed u)

section
variable {i : Instr} {s u t v : State} {W I : List Byte}

theorem Cmd53At.busy (h : Cmd53At i s u) : u.busy = true := (State.busy_iff u).mpr h.running

theorem RequestTick.cmd53Run (h : RequestTick i s W I u t v) (hrun : Cmd53Run i s u) :
    Cmd53Run i s t ∧ Cmd53Run i s v := by
  have hrace := h.share.only.race.trans hrun.race
  exact ⟨⟨h.before, hrace⟩, ⟨h.after, (act_actOnly h.act.act).race.trans hrace⟩⟩

/-- Byte x of the payload call of a CMD53 is that of its part of the payload (R24, R151). -/
theorem Cmd53Run.sentByte (hrun : Cmd53Run i s t) (h53 : Cmd53 s i) (hn : t.block.wte ≠ .none)
    (hc : t.block.cfl = .c53Pay) {x : Nat} {y : Byte} (hx : x < t.block.chunk.toNat) (h : SentByte t x y) :
    (cmd53Data s i)[t.block.cur.toNat + x]? = some y := by
  have hruns := hrun.link.runs
  have hcall := hruns.ok.callOk hn
  obtain ⟨hin, hwrap⟩ := hruns.ok.payload hc
  have hread := hruns.isRead
  have hsize : t.block.size = i.size := hruns.size
  have hlt : t.block.cur.toNat + x < i.size.toNat := by rw [← hsize]; omega
  simp only [callOk, hc, hread] at hcall
  obtain ⟨hd, hsrc, hbase, -⟩ := hcall
  cases h53 with
  | read buf size =>
    have hd' : t.block.wDir = .receive := hd
    simp only [SentByte, hd'] at h
    rw [h]
    exact List.getElem?_replicate_of_lt hlt
  | write buf size hrace =>
    have hd' : t.block.wDir = .send := hd
    simp only [SentByte, hd', hsrc] at h
    rw [cmd53Data, getElem?_bytes _ (n := size.toNat) hlt, h (hrun.race.trans hrace), hbase, hwrap, hruns.buf,
      hrun.link.mem (by simp [ReceivesBuffer, Instr.op]), Nat.add_assoc]
    rfl

/-- The bytes that a call of a CMD53 has put on the link when it returns (R151). -/
theorem CallSent.callImage {cs ds : List Byte} (h : CallSent t cs ds) (h53 : Cmd53 s i) (hrun : Cmd53Run i s t)
    (hst : HeaderStaged t.block) (hn : t.block.wte ≠ .none) (hall : t.block.wOff = t.block.wSize) :
    cs = Machine.callImage (readsLink i) (cmd53Data s i) t.block := by
  have hruns := hrun.link.runs
  have hcall := hruns.ok.callOk hn
  have hreq := hruns.ok.requestOk
  have hread := hruns.isRead
  have hlen := (h.lengths hall).1
  cases hc : t.block.cfl with
  | c53Hdr =>
    simp only [callOk, hc] at hcall
    obtain ⟨hd, hsrc, hsize⟩ := hcall
    rw [hsize] at hlen
    have hhdr : Machine.callImage (readsLink i) (cmd53Data s i) t.block = t.block.hdr.toList := by
      simp only [Machine.callImage, hc]
      rw [hst hc, hread]
    refine eq_of_getElem?_le (by rw [hlen, hhdr]; simp [hdrLen]) fun x y hx => ?_
    rw [hhdr]
    simpa only [SentByte, hd, hsrc] using h.sent x y hx
  | c53Trl =>
    simp only [callOk, hc] at hcall
    obtain ⟨hd, hsrc, hsize⟩ := hcall
    rw [hsize] at hlen
    have htrl : Machine.callImage (readsLink i) (cmd53Data s i) t.block = trailer (readsLink i) := by
      simp only [Machine.callImage, hc]
    refine eq_of_getElem?_le (by rw [hlen, htrl, trailer]; split <;> rfl) fun x y hx => ?_
    rw [htrl]
    simpa only [SentByte, hd, hsrc, hread] using h.sent x y hx
  | c53Pay =>
    have hin := (hruns.ok.payload hc).1
    simp only [callOk, hc] at hcall
    obtain ⟨-, -, -, hsize⟩ := hcall
    rw [hsize, toNat_chunk] at hlen
    have hpay : Machine.callImage (readsLink i) (cmd53Data s i) t.block
        = ((cmd53Data s i).drop t.block.cur.toNat).take t.block.chunk.toNat := by
      simp only [Machine.callImage, hc]
    rw [hruns.size] at hin
    refine eq_of_getElem?_le ?_ fun x y hx => ?_
    · rw [hlen, hpay, List.length_take, List.length_drop, length_cmd53Data]; omega
    · have hlt : x < t.block.chunk.toNat := by
        rw [← hlen]; exact (List.getElem?_eq_some_iff.mp hx).1
      rw [hpay, List.getElem?_take_of_lt hlt, List.getElem?_drop]
      exact hrun.sentByte h53 hn hc hlt (h.sent x y hx)
  | sendTop | recvTop | c0Send | c0Recv =>
    have hop := h53.op
    simp only [requestOk, hc, hruns.op] at hreq
    rcases hop with hop | hop <;> simp [hop] at hreq
  | _ => simp only [callOk, hc] at hcall

/-- CHECK and the moves between the calls of a CMD53 (R150). -/
theorem RequestTick.cmd53Step_own {ds : List Byte}
    (h : RequestTick i s (s.wireOut ++ imageDone (readsLink i) (cmd53Data s i) u.block) (s.wireIn ++ ds) u u v)
    (h53 : Cmd53 s i) (hi : i.wellFormed = true) (hat : Cmd53At i s u) (hds : ds.length = wireDone u.block)
    (hw : u.block.wte = .none) : Cmd53Step i s u v := by
  have hruns := h.before.runs
  have hop : Cmd53Op u.block.op := by rw [hruns.op]; exact h53.op
  have hlen : (cmd53Data s i).length = u.block.size.toNat := by rw [length_cmd53Data, hruns.size]
  obtain ⟨hs, hl⟩ := h.place.idle hw
  obtain ⟨es, hm, -, -⟩ := act_acts hat.busy h.act.act
  obtain ⟨-, hm⟩ := hm.resolve_right fun hm => hm.1 hw
  have hown : OwnMove u v := by
    rw [show v = cflAct u from Host.Outcome.next.inj (h.act.act.symm.trans (act_eq_cflAct hw))]
    exact cflAct_ownMove u
  have hlv := hl.act h.act.act
  have hdone := hm.wireDone hruns.ok hat.plan
  rcases hm.imageDone (read := readsLink i) hruns.ok hat.plan hop hat.staged hlen with
    ⟨hgo, hst, himg⟩ | ⟨hend, hst⟩
  · obtain ⟨-, hplan, hwire⟩ := hdone.resolve_right fun hd => hgo hd.1
    have hsv : Settled v := by rw [Settled, hown.periph]; exact hs
    exact .goesOn
      ⟨hgo, hplan, hst, ds, hds.trans hwire.symm, by rw [himg]; exact requestAt_of_idle (hm.wte hw) hsv hlv⟩
      fun ht => timed_of_own hm hown (act_actOnly h.act.act).cfg hruns.ok hw hgo ht
  · have hidle : v.busy = false := (State.busy_false_iff v).mpr hend
    obtain ⟨hok, himg⟩ := hst.resolve_left fun hill => hruns.status_ne_illegal hi hat.busy h.act.act hidle hill
    obtain ⟨-, hwire⟩ := hdone.resolve_left fun hd => hd.1 hend
    refine .ends ⟨hidle, hok, by rw [hlv.out, himg]; rfl, ds, ?_, hlv.inn⟩
    rw [hds, hwire hok, hruns.op, hruns.buf, hruns.size, decodeReq_fields]

/-- One tick of a CMD53. -/
theorem Cmd53At.step (hat : Cmd53At i s u) (hcfg : s.cfg.wf = true) (h53 : Cmd53 s i) (hi : i.wellFormed = true)
    (hrun : Cmd53Run i s u) : ∃ v, tick u = .next v ∧ Cmd53Run i s v ∧ Cmd53Step i s u v := by
  obtain ⟨ds, hds, hplace⟩ := hat.place
  obtain ⟨t, v, htick⟩ := hrun.link.tick hcfg hi hplace hat.busy
  obtain ⟨hrunt, hrunv⟩ := htick.cmd53Run hrun
  refine ⟨v, htick.tick, hrunv, ?_⟩
  have hblock := htick.block
  rcases htick.act.outcome with ⟨hw, -⟩ | ⟨hn, hcall⟩
  · obtain rfl := htick.unmoved (by simp [← hblock, hw])
    exact htick.cmd53Step_own h53 hi hat hds hw
  have hruns := hrunt.link.runs
  have hop : Cmd53Op t.block.op := by rw [hruns.op]; exact h53.op
  have hbt : t.busy = true := by rw [State.busy, hblock]; exact hat.busy
  have hokcall := hruns.ok.callOk hn
  have hafter := (callOk_afterCall hokcall).2
  obtain ⟨es, hm, -, -⟩ := act_acts hbt htick.act.act
  obtain ⟨-, hm⟩ := hm.resolve_left fun hm => hn hm.1
  rw [← hblock] at hds
  cases hcall with
  | goesOn hcallv hnv hcfl ht =>
    obtain ⟨hplan, hwire⟩ := wireDone_of_goesOn htick.act.act hm hcfl
    obtain ⟨himg, hst⟩ := imageDone_of_goesOn (read := readsLink i) (data := cmd53Data s i) htick.act.act hm hcfl
    rw [hblock] at hcfl himg
    refine .goesOn ⟨hcfl ▸ hat.running, hplan ▸ hblock ▸ hat.plan, hst (hblock ▸ hat.staged), ds, hds.trans hwire.symm,
      .calling hnv (himg ▸ hcallv)⟩ fun htu => ?_
    obtain ⟨htv, hless⟩ := htick.timed_goesOn ht htu
    refine ⟨htv, requestLeft_of_callLeft (hblock ▸ hn) hnv ?_ hless⟩
    rw [callsLeft, callsLeft, hcfl, hm.keeps.rem, hblock]
  | returns cs es hwt hburst hsent hall hv =>
    have hcs := hsent.callImage h53 hrunt (hblock ▸ hat.staged) hn hall
    obtain ⟨hplan, hwire⟩ := wireDone_afterCall hruns.ok hn (hblock ▸ hat.plan)
    obtain ⟨hst, himg⟩ := imageDone_afterCall (read := readsLink i) (data := cmd53Data s i) hruns.ok hn hop
    have ht := htick.timed_afterCall hwt hokcall hv
    rw [← hblock] at hburst
    subst hv
    refine .goesOn ⟨hafter, hplan, hst, ds ++ es, ?_, ?_⟩ ht
    · rw [List.length_append, hds, (hsent.lengths hall).2]; exact hwire.symm
    · rw [State.withBlock_block, himg, ← hcs, ← List.append_assoc, ← List.append_assoc]
      exact requestAt_of_returns rfl hburst
  | givesUp hg hv =>
    subst hv
    exact .late rfl rfl (htick.not_timed hn hg)

/-! ### The run of a CMD53 -/

theorem cmd53Run_accept (i : Instr) (h : s.Ready) : Cmd53Run i s (accept i.op i.buf i.size s) :=
  ⟨linkRun_accept i h, by simp⟩

theorem cmd53At_accept (i : Instr) (h : s.Ready) : Cmd53At i s (accept i.op i.buf i.size s) := by
  refine ⟨by simp, by simp [ChunkPlan], by simp [HeaderStaged], [], by simp [wireDone], ?_⟩
  simp only [imageDone, accept_block, List.append_nil]
  exact requestAt_accept i h

/-- What every tick of a CMD53 keeps: it runs, or it has ended, with all its waits succeeded or with a late one. -/
def Cmd53Reaches (i : Instr) (s u : State) : Prop :=
  Cmd53At i s u ∨ Cmd53End i s u ∨ u.busy = false ∧ u.block.status = .deviceNotResponding

theorem Cmd53Reaches.tick (hcfg : s.cfg.wf = true) (h53 : Cmd53 s i) (hi : i.wellFormed = true)
    (hrun : Cmd53Run i s u) (h : Cmd53Reaches i s u) (hb : u.busy = true) (hv : Machine.tick u = .next v) :
    Cmd53Run i s v ∧ Cmd53Reaches i s v := by
  rcases h with h | h | ⟨h, -⟩
  · obtain ⟨w, hw, hrunw, hstep⟩ := h.step hcfg h53 hi hrun
    obtain rfl : v = w := Host.Outcome.next.inj (hv.symm.trans hw)
    refine ⟨hrunw, ?_⟩
    cases hstep with
    | goesOn hat => exact .inl hat
    | ends h => exact .inr (.inl h)
    | late hb hs => exact .inr (.inr ⟨hb, hs⟩)
  · rw [h.busy] at hb; cases hb
  · rw [h] at hb; cases hb

/-- A CMD53 that has ended OK is one whose waits all succeeded. -/
theorem exec_cmd53 (hready : s.Ready) (h53 : Cmd53 s i) (hi : i.wellFormed = true) (h : exec i s = .next t)
    (hend : t.busy = false) (hst : t.block.status = .ok) : Cmd53Run i s t ∧ Cmd53End i s t := by
  rw [exec_of_idle _ ((State.busy_false_iff s).mpr hready.cflIdle)] at h
  obtain ⟨hrun, hat | hdone | ⟨-, hlate⟩⟩ := runTicks_keeps
    (fun u => Cmd53Run i s u ∧ Cmd53Reaches i s u)
    (fun u v ⟨hrun, hu⟩ hb hv => hu.tick hready.cfgWf h53 hi hrun hb hv) _ _ t
    ⟨cmd53Run_accept i hready, .inl (cmd53At_accept i hready)⟩ h
  · rw [hat.busy] at hend; cases hend
  · exact ⟨hrun, hdone⟩
  · rw [hst] at hlate; cases hlate

/-- A timed CMD53 ends with its waits succeeded when the ticks left are spent. -/
theorem Cmd53At.ends (hcfg : s.cfg.wf = true) (h53 : Cmd53 s i) (hi : i.wellFormed = true) :
    ∀ (k : Nat) (u : State), Cmd53Run i s u → Cmd53At i s u → Timed u → requestLeft u < k →
      ∃ t, runTicks k u = .next t ∧ Cmd53Run i s t ∧ Cmd53End i s t := by
  intro k
  induction k with
  | zero => intro u _ _ _ hk; omega
  | succ k ih =>
    intro u hrun hat ht hk
    obtain ⟨v, hv, hrunv, hstep⟩ := hat.step hcfg h53 hi hrun
    rw [runTicks_busy k hat.busy, hv, andThen_next]
    cases hstep with
    | goesOn hatv hgo =>
      obtain ⟨htv, hless⟩ := hgo ht
      exact ih v hrunv hatv htv (by omega)
    | ends h => exact ⟨v, runTicks_idle k h.busy, hrunv, h⟩
    | late _ _ hlate => exact absurd ht hlate

/-- Under a healthy peripheral no wait of a CMD53 is late (R112, R211). -/
theorem exec_cmd53_completes (hready : s.Ready) (hstale : s.staleFits) (hrx : s.periph.rx.length < 2 ^ 32)
    (hhealthy : s.healthy) (h53 : Cmd53 s i) (hi : i.wellFormed = true) :
    ∃ t, exec i s = .next t ∧ Cmd53Run i s t ∧ Cmd53End i s t := by
  have htimed : Timed (accept i.op i.buf i.size s) := by
    refine ⟨by rw [State.healthy, accept_sched]; exact hhealthy, by simp, fun _ => ?_, by simp, by simp⟩
    rw [State.staleFits, accept_cfg, accept_rx]; exact hstale
  have hfuel : requestLeft (accept i.op i.buf i.size s) < tickFuel := by
    simp only [requestLeft, callsLeft, accept_block, accept_rx, tickFuel]
    simp
    omega
  rw [exec_of_idle _ ((State.busy_false_iff s).mpr hready.cflIdle)]
  exact Cmd53At.ends hready.cfgWf h53 hi tickFuel _ (cmd53Run_accept i hready) (cmd53At_accept i hready) htimed hfuel

end

/-- Settles O24: the run of a CMD53W that ends OK leads to its end with all waits succeeded. -/
theorem cmd53WriteThatEndsOkHasSentItsImage : Obligations.Cmd53WriteThatEndsOkHasSentItsImage := by
  intro s t buf size hready hrace h hend hst
  obtain ⟨hrun, hdone⟩ := exec_cmd53 hready (.write buf size hrace) (wellFormed_of_ok hready h hend hst) h hend hst
  exact ⟨hdone.out, hrun.link.mem (by simp [ReceivesBuffer, Instr.op])⟩

/-- Settles O29: under a healthy peripheral no wait is late, so the run ends as O24 says. -/
theorem cmd53WriteCompletes : Obligations.Cmd53WriteCompletes := by
  intro s buf size hready hstale hrx hhealthy hrace hi
  obtain ⟨t, ht, hrun, hdone⟩ := exec_cmd53_completes hready hstale hrx hhealthy (.write buf size hrace) hi
  exact ⟨t, ht, hdone.busy, hdone.status, hdone.out, hrun.link.mem (by simp [ReceivesBuffer, Instr.op])⟩

end Sys2Proof.Machine

namespace Sys2Proof.Machine

/-! ## The payload bytes that a CMD53R has stored -/

/-- The first k bytes received in the payload parts since s have been stored, in order, from buf on, each once, and no
other byte (R119, R151, R152). -/
structure PayloadStored (buf : Word) (s u : State) (k : Nat) : Prop where
  received : ∃ ins, u.wireIn = s.wireIn ++ ins
    ∧ ∀ x < k, ins[payloadPos x]? = some (u.mem.read (buf.toNat + x))
  addrs : u.writeAddrs = s.writeAddrs ++ bufferAddrs buf k
  outside : ∀ a, a < buf.toNat ∨ buf.toNat + k ≤ a → u.mem.read a = s.mem.read a
  wf : u.mem.wf = true

/-- What a CMD53R has stored after a tick, when it has come to its byte number k. -/
structure PayloadReaches (buf size : Word) (s u : State) (k : Nat) : Prop where
  stored : PayloadStored buf s u k
  inside : k ≤ size.toNat
  busy : u.busy = true → k = bufferMoved u.block
  ok : u.busy = false → u.block.status = .ok → k = size.toNat
  late : u.busy = false → u.block.status = .deviceNotResponding →
    u.block.cur.toNat ≤ k ∧ (u.block.wSrc = .buf → u.block.cur.toNat + u.block.wOff.toNat ≤ k)

section
variable {buf size : Word} {s u t v : State} {W I : List Byte} {k : Nat}

/-- Further bytes may arrive. -/
theorem PayloadStored.more (h : PayloadStored buf s u k) (hin : ∃ d, v.wireIn = u.wireIn ++ d)
    (hw : v.writeAddrs = u.writeAddrs) (hm : v.mem = u.mem) : PayloadStored buf s v k := by
  obtain ⟨ins, hi, hbytes⟩ := h.received
  obtain ⟨d, hd⟩ := hin
  refine ⟨⟨ins ++ d, by rw [hd, hi, List.append_assoc], fun x hx => ?_⟩, hw.trans h.addrs,
    fun a ha => hm ▸ h.outside a ha, hm ▸ h.wf⟩
  have hb := hbytes x hx
  rw [List.getElem?_append_left (List.getElem?_eq_some_iff.mp hb).1, hb, hm]

/-- The next byte received in a payload part is stored in its place. -/
theorem PayloadStored.store {y : Byte} (h : PayloadStored buf s u k)
    (hy : ∃ ins, u.wireIn = s.wireIn ++ ins ∧ ins[payloadPos k]? = some y) (hin : v.wireIn = u.wireIn)
    (hw : v.writeAddrs = u.writeAddrs ++ [buf.toNat + k]) (hm : v.mem = u.mem.write (buf.toNat + k) y)
    (ha : buf.toNat + k < 2 ^ 32) : PayloadStored buf s v (k + 1) := by
  obtain ⟨ins, hi, hbytes⟩ := h.received
  obtain ⟨ins', hi', hy⟩ := hy
  obtain rfl : ins' = ins := List.append_cancel_left (hi'.symm.trans hi)
  refine ⟨⟨ins', hin.trans hi, fun x hx => ?_⟩, ?_, fun a hout => ?_, ?_⟩
  · rw [hm]
    rcases Nat.lt_succ_iff_lt_or_eq.mp hx with hx | rfl
    · rw [Memory.read_write_ne _ _ (by omega)]
      exact hbytes x hx
    · rw [Memory.read_write_self _ _ _ h.wf, hy]
  · rw [hw, h.addrs, bufferAddrs_succ, List.append_assoc]
  · rw [hm, Memory.read_write_ne _ _ (by omega)]
    exact h.outside a (by omega)
  · rw [hm]; exact Memory.write_wf _ _ _ h.wf ha

/-- A CMD53R stands in its payload call while it stores (R151). -/
theorem Stores.c53Pay {j : Fin 4} (h : Stores t j) (hrun : RunsRequest (.cmd53r buf size) t.block) :
    t.block.cfl = .c53Pay ∧ t.block.wBase.toNat = buf.toNat + t.block.cur.toNat
      ∧ t.block.wSize.toNat = t.block.chunk.toNat := by
  have hcall := hrun.ok.callOk (by simp [h.wte])
  have hreq := hrun.ok.requestOk
  have hd := hrun.phase.2 j h.wte h.phase
  have hop : t.block.op = 0b011#3 := hrun.op
  cases hc : t.block.cfl with
  | recvTop =>
    simp only [requestOk, hc, hop] at hreq
    exact absurd hreq.1 (by simp)
  | c53Pay =>
    have hwrap := (hrun.ok.payload hc).2
    simp only [callOk, hc] at hcall
    obtain ⟨-, -, hbase, hsize⟩ := hcall
    refine ⟨rfl, by rw [hbase, hwrap, hrun.buf]; rfl, by rw [hsize, toNat_chunk]⟩
  | _ => simp [callOk, hc, hd, h.src] at hcall

/-- The link bytes of the chunks completed, and the header of the one in progress, come before its payload part. -/
theorem payloadPos_of_c53Pay {b : Block} (hp : ChunkPlan b) (hc : b.cfl = .c53Pay) {x : Nat} (hx : x < b.chunk.toNat) :
    payloadPos (b.cur.toNat + x) = wireDone b + x := by
  simp only [ChunkPlan, hc] at hp
  obtain ⟨hcur, hlen⟩ := hp
  rw [payloadPos_add hcur (by unfold chunkMax; omega)]
  simp only [wireDone, chunksDone, hc]
  unfold chunkMax chunkOverhead hdrLen trlLen
  omega

/-- One tick of a CMD53R stores the next byte received in a payload part, or none. -/
theorem RequestTick.payloadStored {ds : List Byte} (h : RequestTick (.cmd53r buf size) s W I u t v) (hb : u.busy = true)
    (hplan : ChunkPlan u.block) (hds : ds.length = wireDone u.block) (hI : I = s.wireIn ++ ds)
    (hst : PayloadStored buf s u (bufferMoved u.block)) :
    ∃ es n, BlockMove t.block es v.block ∧ BufferStep t.block es v.block n
      ∧ PayloadStored buf s v (bufferMoved t.block + n) := by
  have hblock := h.block
  have hbt : t.busy = true := by rw [State.busy, hblock]; exact hb
  have hrun := h.before.runs
  have hstt : PayloadStored buf s t (bufferMoved t.block) := by
    rw [hblock]
    exact hst.more h.share.only.wireIn (h.share.only.filterMap_trace fun _ _ => rfl) h.share.only.mem
  obtain ⟨es, hm, htrace, hmem⟩ := act_writes hbt h.act.act
  obtain ⟨n, hstep⟩ := hm.bufferStep hrun.ok hrun.phase ((State.busy_iff t).mp hbt)
  have hop : ¬ SendsBuffer t.block.op := by rw [hrun.op]; simp [SendsBuffer, Instr.op]
  have hwrites : v.writeAddrs = t.writeAddrs ++ es.filterMap Event.writeAddr? := by
    rw [State.writeAddrs, htrace, List.filterMap_append]; rfl
  have hin := (act_actOnly h.act.act).wireIn
  refine ⟨es, n, hm, hstep, ?_⟩
  rcases hmem with ⟨hmem, hes⟩ | ⟨j, hs, hmem, hes⟩
  · have hn : n = 0 := by
      cases hstep.access with
      | none => rfl
      | read hsend => exact absurd hsend hop
      | write _ _ hw => rw [hes] at hw; cases hw
    rw [hn]
    exact hstt.more ⟨[], by rw [hin, List.append_nil]⟩ (by rw [hwrites, hes, List.append_nil]) hmem
  · obtain ⟨hc, hbase, hsize⟩ := hs.c53Pay hrun
    have hbuf : t.block.buf = buf := hrun.buf
    obtain ⟨rfl, haddr⟩ : n = 1 ∧ t.block.wBase.toNat + (t.block.wOff.toNat + burstPos t.block j)
        = buf.toNat + bufferMoved t.block := by
      cases hstep.access with
      | none _ hw => rw [hes] at hw; cases hw
      | read hsend => exact absurd hsend hop
      | write _ _ hw =>
        rw [hes, hbuf] at hw
        exact ⟨rfl, List.singleton_inj.mp hw⟩
    have hmoved : bufferMoved t.block = t.block.cur.toNat + (t.block.wOff.toNat + burstPos t.block j) := by omega
    obtain ⟨⟨hpos, -, hle⟩, -⟩ := hrun.ok.burst (.inr hs.wte)
    have hinside := hs.inside
    have hfits := hrun.ok.bufferCall_inside (by simp [hs.wte]) hs.src (by omega)
    obtain ⟨ws, hws, hbyte⟩ := h.place.received hs
    rw [haddr] at hmem hes
    refine hstt.store ⟨ds ++ ws, by rw [hws, hI, List.append_assoc], ?_⟩ hin (by rw [hwrites, hes]) hmem (by omega)
    rw [hmoved, payloadPos_of_c53Pay (hblock ▸ hplan) hc (by omega), hblock, ← hds, ← hblock,
      List.getElem?_append_right (by omega), Nat.add_sub_cancel_left]
    exact hbyte

/-- A call of a CMD53 begins at or before the byte that the request has come to (R150). -/
theorem BlockOk.cur_le {b : Block} (h : BlockOk b) (hn : b.wte ≠ .none) (hop : Cmd53Op b.op) :
    b.cur.toNat ≤ bufferMoved b ∧ (b.wSrc = .buf → b.cur.toNat + b.wOff.toNat ≤ bufferMoved b) := by
  have hcall := h.callOk hn
  have hreq := h.requestOk
  cases hc : b.cfl with
  | c53Hdr | c53Trl =>
    simp only [Machine.callOk, hc] at hcall
    simp [bufferMoved, hc, hcall.2.1]
  | c53Pay => simp [bufferMoved, hc, callMoved, hn]
  | sendTop | recvTop | c0Send | c0Recv => rcases hop with hop | hop <;> simp [Machine.requestOk, hc, hop] at hreq
  | _ => simp [Machine.callOk, hc] at hcall

/-- A tick that raises DEVICE_NOT_RESPONDING is one inside a call, and does nothing else (R174). -/
theorem RequestTick.raises {i : Instr} (h : RequestTick i s W I u t v) (hb : u.busy = true) (hend : v.busy = false)
    (hst : v.block.status = .deviceNotResponding) :
    t.block.wte ≠ .none ∧ v = endRequest .deviceNotResponding t := by
  have hbt : t.busy = true := by rw [State.busy, h.block]; exact hb
  have hrun := h.before.runs
  have hbusy := (State.busy_iff t).mp hbt
  have hidle := (State.busy_false_iff v).mp hend
  obtain ⟨es, hm, -, -⟩ := act_acts hbt h.act.act
  obtain ⟨hn, -⟩ := hm.wOff_of_late hrun.ok hrun.phase hbusy hidle hst
  refine ⟨hn, ?_⟩
  rcases h.act.outcome with ⟨hw, -⟩ | ⟨-, hcall⟩
  · exact absurd hw hn
  · cases hcall with
    | goesOn _ _ hcfl => exact absurd (hcfl.symm.trans hidle) hbusy
    | returns _ _ _ _ _ _ hv =>
      rw [hv] at hidle
      exact absurd hidle (callOk_afterCall (hrun.ok.callOk hn)).2
    | givesUp _ hv => exact hv

/-- One tick of a CMD53R keeps what it has stored in step with where it stands. -/
theorem RequestTick.payloadReaches {ds : List Byte} (h : RequestTick (.cmd53r buf size) s W I u t v) (hb : u.busy = true)
    (hplan : ChunkPlan u.block) (hds : ds.length = wireDone u.block) (hI : I = s.wireIn ++ ds)
    (hst : PayloadReaches buf size s u (bufferMoved u.block)) : ∃ k, PayloadReaches buf size s v k := by
  obtain ⟨es, n, hm, hstep, hstored⟩ := h.payloadStored hb hplan hds hI hst.stored
  have hruns := h.before.runs
  have hsize : t.block.size = size := hruns.size
  have hsizev : v.block.size = size := h.after.runs.size
  have hend : v.busy = false → n = 0 ∧ (v.block.status = .ok → bufferMoved t.block = size.toNat) := fun hbv => by
    obtain ⟨hn, hall⟩ := hstep.ends ((State.busy_false_iff v).mp hbv)
    exact ⟨hn, fun hok => hsize ▸ hall hok (.inr (hruns.op ▸ .inr rfl))⟩
  refine ⟨bufferMoved t.block + n, hstored, ?_, fun hbv => ?_, fun hbv hok => ?_, fun hbv hlate => ?_⟩
  · cases hbv : v.busy with
    | true =>
      rw [← hstep.goesOn ((State.busy_iff v).mp hbv), ← hsizev]
      exact h.after.runs.ok.bufferMoved_le
    | false =>
      rw [(hend hbv).1, h.block]
      exact hst.inside
  · exact (hstep.goesOn ((State.busy_iff v).mp hbv)).symm
  · obtain ⟨rfl, hall⟩ := hend hbv
    exact hall hok
  · obtain ⟨hn, hv⟩ := h.raises hb hbv hlate
    obtain ⟨hcur, hoff⟩ := hruns.ok.cur_le hn (hruns.op ▸ .inl rfl)
    subst hv
    exact ⟨Nat.le_add_right_of_le hcur, fun hs => Nat.le_add_right_of_le (hoff hs)⟩

end

/-! ### The run of a CMD53R -/

/-- What every tick of a CMD53R keeps, from the state s it was made in. -/
structure Cmd53ReadRun (buf size : Word) (s u : State) : Prop where
  run : Cmd53Run (.cmd53r buf size) s u
  reaches : Cmd53Reaches (.cmd53r buf size) s u
  stored : ∃ k, PayloadReaches buf size s u k

section
variable {buf size : Word} {s t u v : State}

theorem cmd53ReadRun_accept (hready : s.Ready) (hwf : s.mem.wf = true) :
    Cmd53ReadRun buf size s (accept (Instr.cmd53r buf size).op buf size s) := by
  refine ⟨cmd53Run_accept (.cmd53r buf size) hready, .inl (cmd53At_accept (.cmd53r buf size) hready), 0, ?_,
    Nat.zero_le _, ?_, ?_, ?_⟩
  · exact ⟨⟨[], by simp [State.wireIn], by simp⟩, by simp [State.writeAddrs, bufferAddrs], by simp, by simpa using hwf⟩
  · simp [bufferMoved]
  · simp
  · simp

theorem Cmd53ReadRun.tick (hcfg : s.cfg.wf = true) (hi : (Instr.cmd53r buf size).wellFormed = true)
    (h : Cmd53ReadRun buf size s u) (hb : u.busy = true) (hv : tick u = .next v) : Cmd53ReadRun buf size s v := by
  obtain ⟨hrunv, hreaches⟩ := h.reaches.tick hcfg (.read buf size) hi h.run hb hv
  refine ⟨hrunv, hreaches, ?_⟩
  obtain ⟨k, hk⟩ := h.stored
  obtain rfl := hk.busy hb
  rcases h.reaches with hat | hdone | ⟨hidle, -⟩
  · obtain ⟨ds, hds, hplace⟩ := hat.place
    obtain ⟨t, w, htick⟩ := h.run.link.tick hcfg hi hplace hb
    obtain rfl : v = w := Host.Outcome.next.inj (hv.symm.trans htick.tick)
    exact htick.payloadReaches hb hat.plan hds rfl hk
  · rw [hdone.busy] at hb; cases hb
  · rw [hidle] at hb; cases hb

/-- A CMD53R that the block runs keeps all that its ticks keep. -/
theorem exec_cmd53r (hready : s.Ready) (hwf : s.mem.wf = true) (hi : (Instr.cmd53r buf size).wellFormed = true)
    (h : exec (.cmd53r buf size) s = .next t) : Cmd53ReadRun buf size s t := by
  rw [exec_of_idle _ ((State.busy_false_iff s).mpr hready.cflIdle)] at h
  exact runTicks_keeps (Cmd53ReadRun buf size s) (fun u v hu hb hv => hu.tick hready.cfgWf hi hb hv) _ _ t
    (cmd53ReadRun_accept hready hwf) h

/-- The bytes stored are the first bytes of the payload parts received (R151). -/
theorem PayloadStored.bytes_eq {k : Nat} {ins : List Byte} (h : PayloadStored buf s t k) (hk : k ≤ size.toNat)
    (hin : t.wireIn = s.wireIn ++ ins) : k ≤ (cmd53Payload size.toNat ins).length
      ∧ t.mem.bytes buf.toNat k = (cmd53Payload size.toNat ins).take k := by
  obtain ⟨ins', hin', hbytes⟩ := h.received
  obtain rfl : ins' = ins := List.append_cancel_left (hin'.symm.trans hin)
  have hpay : ∀ x < k, (cmd53Payload size.toNat ins')[x]? = some (t.mem.read (buf.toNat + x)) := fun x hx => by
    rw [(getElem?_cmd53Payload ins' size.toNat).2 x (by omega)]
    exact hbytes x hx
  have hlen : k ≤ (cmd53Payload size.toNat ins').length := by
    by_contra hlt
    have hlast := hpay _ (Nat.lt_of_not_le hlt)
    rw [List.getElem?_eq_none le_rfl] at hlast
    cases hlast
  refine ⟨hlen, eq_of_getElem?_le (by rw [length_bytes, List.length_take]; omega) fun x y hx => ?_⟩
  have hlt : x < k := by
    rw [← length_bytes t.mem buf.toNat k]; exact (List.getElem?_eq_some_iff.mp hx).1
  rw [List.getElem?_take_of_lt hlt, hpay x hlt, ← getElem?_bytes t.mem hlt]
  exact hx

/-- A CMD53R that has ended OK has the payload bytes received in its buffer (R152, R157). -/
theorem Cmd53ReadRun.payload_of_ok (h : Cmd53ReadRun buf size s t) (hdone : Cmd53End (.cmd53r buf size) s t) :
    ∃ ins : List Byte, ins.length = wireLength (.cmd53r buf size) ∧ t.wireIn = s.wireIn ++ ins
      ∧ t.mem.bytes buf.toNat size.toNat = cmd53Payload size.toNat ins := by
  obtain ⟨k, hk⟩ := h.stored
  obtain rfl := hk.ok hdone.busy hdone.status
  obtain ⟨ds, hlen, hds⟩ := hdone.inn
  have hbytes := (hk.stored.bytes_eq hk.inside hds).2
  rw [List.take_of_length_le (getElem?_cmd53Payload ds size.toNat).1] at hbytes
  exact ⟨ds, hlen, hds, hbytes⟩

end

/-- Settles O23: the run of a CMD53R that ends OK leads to its end with all waits succeeded, and stores as it receives. -/
theorem cmd53ReadThatEndsOkHasStoredThePayload : Obligations.Cmd53ReadThatEndsOkHasStoredThePayload := by
  intro s t buf size hready hwf h hend hst
  have hi := wellFormed_of_ok hready h hend hst
  obtain ⟨-, hdone⟩ := exec_cmd53 hready (.read buf size) hi h hend hst
  exact ⟨hdone.out, (exec_cmd53r hready hwf hi h).payload_of_ok hdone,
    fun a ha => receivingRequestsKeepMemoryOutsideTheBuffer _ s t buf size (.inr rfl) h
      ((State.busy_false_iff s).mpr hready.cflIdle) a ha⟩

/-- Settles O28: under a healthy peripheral no wait is late, so the run ends as O23 says. -/
theorem cmd53ReadCompletes : Obligations.Cmd53ReadCompletes := by
  intro s buf size hready hstale hrx hhealthy hwf hi
  obtain ⟨t, ht, -, hdone⟩ := exec_cmd53_completes hready hstale hrx hhealthy (.read buf size) hi
  obtain ⟨ins, -, hin, hbytes⟩ := (exec_cmd53r hready hwf hi ht).payload_of_ok hdone
  exact ⟨t, ht, hdone.busy, hdone.status, hdone.out, ins, hin, hbytes⟩

/-- Settles O56: what a CMD53R has stored is kept by every tick; one that CHECK refuses has received and stored
nothing. -/
theorem cmd53ReadHasStoredAFirstPartOfThePayload : Obligations.Cmd53ReadHasStoredAFirstPartOfThePayload := by
  intro s t buf size hready hwf h
  cases hi : (Instr.cmd53r buf size).wellFormed with
  | true =>
    obtain ⟨-, -, k, hk⟩ := exec_cmd53r hready hwf hi h
    obtain ⟨ins, hin, -⟩ := hk.stored.received
    obtain ⟨hlen, hbytes⟩ := hk.stored.bytes_eq hk.inside hin
    exact ⟨k, ins, hk.inside, hlen, hin, hbytes, hk.stored.addrs, hk.stored.outside, hk.late⟩
  | false =>
    rw [illegalRequestsLeaveThePeripheralToItself _ s hi ((State.busy_false_iff s).mpr hready.cflIdle) hready.noReset,
      breathe_of_no_frame (by exact hready.frameNone), andThen_next] at h
    cases h
    refine ⟨0, [], Nat.zero_le _, Nat.zero_le _, ?_, rfl, ?_, fun _ _ => rfl, fun _ hst => by cases hst⟩
    · exact (endRequest_actOnly _ _).wireIn.trans (List.append_nil _).symm
    · simp [State.writeAddrs, Event.writeAddr?]

end Sys2Proof.Machine

namespace Sys2Proof.Machine

/-! ## The causes of the statuses -/

/-- A wait is about to give up only with its poll budget used up (R112, R115). -/
def SpentAtGiveUp (c : Config) (b : Block) : Prop := b.wte ≠ .none → b.phase = .giveUp → pollsSpent c b.polls = true

section
variable {b b' : Block} {es : List Event} {u v : State}

/-- A move that leads to the raise is a poll of a wait or of the drain, which stays where it is (R112, R115). -/
theorem BlockMove.polls_of_giveUp (hm : BlockMove b es b') (hn : b'.wte ≠ .none) (hg : b'.phase = .giveUp) :
    b'.wte = b.wte ∧ (b.wte = .b2Drain ∨ b.wte = .b3Txe ∨ (b.wte = .b5Words ∨ b.wte = .b7Rx) ∧ b.phase = .start) := by
  have hword : ∀ after c, (wordDone after c).phase ≠ .giveUp := fun after c => by
    obtain ⟨p, w, he⟩ := wordDone_eq after c
    simp [he]
  rcases hm with ⟨hw, hm⟩ | ⟨-, hm⟩
  · cases hm with
    | calls => cases hg
    | ends => exact absurd rfl hn
    | _ => exact absurd hw hn
  · cases hm with
    | drainGoesOn v p hw => exact ⟨rfl, .inl hw⟩
    | waitGoesOn v p hw =>
      rcases hw with hw | ⟨hw, hp, -⟩
      · exact ⟨rfl, .inr (.inl hw)⟩
      · exact ⟨rfl, .inr (.inr ⟨hw, hp⟩)⟩
    | callReturns | givesUp => exact absurd rfl hn
    | txdWritten | rxdDiscarded => exact absurd hg (hword _ _)
    | packs k es v =>
      rcases byteDone_cases k { b with latch := setByte b.latch k v, phase := .last }
        { b with latch := setByte b.latch k v } with ⟨_, he⟩ | ⟨_, he⟩ <;> rw [he] at hg <;> cases hg
    | stores k es r =>
      rcases byteDone_cases k (wordDone .next { b with resp := r }) { b with resp := r } with ⟨_, he⟩ | ⟨_, he⟩ <;>
        rw [he] at hg
      · cases hg
      · exact absurd hg (hword _ _)
    | _ => cases hg

/-- A poll of a wait leads to the raise only when it used up the budget (R112). -/
theorem waitPoll_spent {t : StaTest} {onHold : State → State} (h : waitPoll t onHold u = .next v)
    (hhold : (onHold (readSta u).2).block.phase ≠ .giveUp) (hp : u.block.phase ≠ .giveUp)
    (hg : v.block.phase = .giveUp) : pollsSpent v.cfg v.block.polls = true := by
  rcases waitPoll_next h with ⟨-, rfl⟩ | ⟨-, -, rfl⟩ | ⟨-, hspent, rfl⟩
  · exact absurd hg hhold
  · exact absurd hg hp
  · exact hspent

/-- A poll of the drain leads to the raise only when the budget is used up (R115). -/
theorem drainPoll_spent (hg : (drainPoll u).block.phase = .giveUp) :
    pollsSpent (drainPoll u).cfg (drainPoll u).block.polls = true := by
  unfold drainPoll at hg ⊢
  dsimp only at hg ⊢
  split at hg
  · cases hg
  · rename_i hrx
    rw [if_neg hrx]
    split at hg
    · rename_i hspent
      rw [if_pos hspent]
      exact hspent
    · cases hg

/-- Whatever the block does, it is about to raise DEVICE_NOT_RESPONDING only with the budget used up (R112, R115). -/
theorem act_spentAtGiveUp (hb : u.busy = true) (hv : act u = .next v) : SpentAtGiveUp v.cfg v.block := by
  intro hn hg
  obtain ⟨es, hm, -, -⟩ := act_acts hb hv
  obtain ⟨hsame, hw⟩ := hm.polls_of_giveUp hn hg
  have hne : u.block.phase ≠ .giveUp := fun hp => by
    rw [act_of_giveUp hp (by tauto)] at hv
    cases hv
    exact hn rfl
  rcases hw with hw | hw | ⟨hw | hw, hp⟩
  · rw [act_eq_of_wte hw (by simp), wteAct, hw] at hv
    change drain u = .next v at hv
    by_cases hl : u.block.phase = .last
    · unfold drain at hv
      rw [hl] at hv
      obtain ⟨r, -, hr⟩ := andThen_eq_next.mp hv
      cases hr
      cases hg
    · rw [drain_of_poll hl hne] at hv
      cases hv
      exact drainPoll_spent hg
  · rw [act_eq_of_wte hw (by simp), wteAct, hw] at hv
    change waitTxe u = .next v at hv
    rw [waitTxe_of_poll hne] at hv
    exact waitPoll_spent hv (by simp [goWte]) hne hg
  · rw [act_eq_of_wte hw (by simp), wteAct, hw] at hv
    simp only [txWords, hp] at hv
    refine waitPoll_spent hv ?_ hne hg
    unfold beginTxWord
    split <;> simp [goPhase]
  · rw [act_rxPoll hw hp] at hv
    exact waitPoll_spent hv (by simp [goPhase]) hne hg

/-- A call gives the strobe of DEVICE_NOT_RESPONDING only when it gives up. -/
theorem WteMove.phase_of_complete (hm : WteMove b [.complete .deviceNotResponding] b') : b.phase = .giveUp := by
  cases hm with
  | givesUp hp => exact hp
  | packs k es v hw hp hv => cases hv
  | stores k es r hw hp hr => cases hr

/-- How a move ends the request: CHECK refuses it, C0_EVAL or FINISH ends it, or a call gives up (R170). -/
inductive Ends (b b' : Block) : Prop
  | refused (hst : b'.status = .illegalRequest)
  | evaluated (hc : b.cfl = .c0Eval) (hst : b'.status = if b.resp = 0x01 then .ok else .protocolMismatch)
      (hr : b'.resp = b.resp)
  | finished (hc : b.cfl = .finish) (hst : b'.status = .ok)
  | gaveUp (hn : b.wte ≠ .none) (hg : b.phase = .giveUp) (hst : b'.status = .deviceNotResponding)
      (hp : b'.polls = b.polls)

theorem BlockMove.ends (hm : BlockMove b es b') (hok : BlockOk b) (hp : PhaseOk b) (hb : b.cfl ≠ .idle)
    (hend : b'.cfl = .idle) : Ends b b' := by
  rcases hm with ⟨-, hm⟩ | ⟨hn, hm⟩
  · cases hm with
    | ends st he =>
      rcases he with ⟨-, rfl⟩ | ⟨hc, rfl⟩ | ⟨hc, rfl⟩
      · exact .refused rfl
      · exact .evaluated hc rfl rfl
      · exact .finished hc rfl
    | bufferChecked c hc hbad hop => rcases hop with ⟨-, rfl⟩ | ⟨-, rfl⟩ <;> cases hend
    | calls => exact absurd hend hb
    | _ => cases hend
  · cases hm.callStep hok hp hn with
    | goesOn _ _ _ _ hcfl => exact absurd (hcfl.symm.trans hend) hb
    | returns _ _ hb' =>
      subst hb'
      exact absurd hend (callOk_afterCall (hok.callOk hn)).2
    | givesUp hes hb' =>
      subst hes hb'
      exact .gaveUp hn hm.phase_of_complete rfl rfl

end

/-- What the status of a request i that has ended in t says (R146, R174). -/
structure StatusCause (i : Instr) (t : State) : Prop where
  mismatch : t.block.status = .protocolMismatch → i.op = 0b010#3 ∧ t.block.resp ≠ 0x01
  late : t.block.status = .deviceNotResponding → pollsSpent t.cfg t.block.polls = true
  ok : t.block.status = .ok → i.op = 0b010#3 → t.block.resp = 0x01

/-- An action that ends the request gives it a status with its cause. -/
theorem RunsRequest.statusCause {i : Instr} {u v : State} (h : RunsRequest i u.block)
    (hspent : SpentAtGiveUp u.cfg u.block) (hb : u.busy = true) (hv : Machine.act u = .next v) (hend : v.busy = false) :
    StatusCause i v := by
  obtain ⟨es, hm, -, -⟩ := act_acts hb hv
  have hreq := h.ok.requestOk
  cases hm.ends h.ok h.phase ((State.busy_iff u).mp hb) ((State.busy_false_iff v).mp hend) with
  | refused hst => exact ⟨by simp [hst], by simp [hst], by simp [hst]⟩
  | evaluated hc hst hr =>
    simp only [requestOk, hc, h.op] at hreq
    by_cases hone : u.block.resp = 0x01
    · rw [if_pos hone] at hst
      exact ⟨by simp [hst], by simp [hst], fun _ _ => hr.trans hone⟩
    · rw [if_neg hone] at hst
      exact ⟨fun _ => ⟨hreq, fun he => hone (hr.symm.trans he)⟩, by simp [hst], by simp [hst]⟩
  | finished hc hst =>
    simp only [requestOk, hc, h.op] at hreq
    exact ⟨by simp [hst], by simp [hst], fun _ hop => absurd hop hreq⟩
  | gaveUp hn hg hst hp =>
    refine ⟨by simp [hst], fun _ => ?_, by simp [hst]⟩
    rw [hp, (act_actOnly hv).cfg]
    exact hspent hn hg

theorem exec_statusCause {i : Instr} {s t : State} (hb : s.busy = false) (hr : s.env.resets = [])
    (h : exec i s = .next t) (hend : t.busy = false) : t.cfg = s.cfg ∧ StatusCause i t := by
  refine (exec_keeps (fun u => RunsRequest i u.block ∧ SpentAtGiveUp u.cfg u.block
    ∧ u.cfg = s.cfg ∧ (u.busy = false → StatusCause i u)) hb hr h
    ⟨runsRequest_accept i s, by simp [SpentAtGiveUp], by simp, by simp⟩ ?_ ?_).2.2.imp_right (· hend)
  · rintro u v ⟨hruns, hspent, hcfg, hcause⟩ hv
    refine ⟨hv.block ▸ hruns, by rw [hv.block, hv.cfg]; exact hspent, hv.cfg.trans hcfg, fun hbv => ?_⟩
    rw [State.busy, hv.block] at hbv
    obtain ⟨h1, h2, h3⟩ := hcause hbv
    exact ⟨hv.block ▸ h1, by rw [hv.block, hv.cfg]; exact h2, hv.block ▸ h3⟩
  · rintro u v ⟨hruns, hspent, hcfg, -⟩ hbu hv
    exact ⟨hruns.act hbu hv, act_spentAtGiveUp hbu hv, (act_actOnly hv).cfg.trans hcfg,
      hruns.statusCause hspent hbu hv⟩

/-- Only CMD0 has its op code (R81). -/
theorem op_eq_cmd0_iff (i : Instr) : i.op = 0b010#3 ↔ ∃ b n, i = .cmd0 b n := by
  cases i <;> simp [Instr.op]

/-- Settles O17: the move that ends the request gives it a status with its cause, and a wait gives up only with the
budget used up. -/
theorem statusesHaveTheirCauses : Obligations.StatusesHaveTheirCauses := by
  intro i s t hb hr h hend
  obtain ⟨hcfg, hmismatch, hlate, hok⟩ := exec_statusCause hb hr h hend
  rw [← op_eq_cmd0_iff, ← hcfg]
  exact ⟨hmismatch, fun hst => (pollsSpent_iff _ _).mp (hlate hst), hok⟩

end Sys2Proof.Machine

namespace Sys2Proof.Machine

/-! ## The interrupt and GPIO collaborators -/

/-- The driver is signalled while both bits are set (R181). -/
theorem irqSignal_iff (s : State) : irqSignal s = true ↔ s.irq.enabled = true ∧ s.irq.pending = true :=
  Bool.and_eq_true_iff

/-- Settles O53: each op, and the chip-ready event, is a move of the host on an idle block. -/
theorem interruptCollaboratorFollowsItsOps : Obligations.InterruptCollaboratorFollowsItsOps := by
  intro s m rest hb hf h
  have hstep := step_of_hostMove hb hf h
  refine ⟨?enable, ?disable, ?acknowledge, ?status, ?chipReady, irqSignal_iff s, rfl⟩
  all_goals
    rintro rfl
    exact hstep (by simp)

/-- ENABLE and DISABLE set a line's direction and keep its level, HIGH and LOW the other way round (R182). -/
theorem gpioLineOp_eq {op : GpioOp} {new old : GpioLine}
    (h : op = .enable ∧ new = ⟨true, old.level⟩ ∨ op = .disable ∧ new = ⟨false, old.level⟩
      ∨ op = .high ∧ new = ⟨old.output, true⟩ ∨ op = .low ∧ new = ⟨old.output, false⟩) :
    gpioLineOp op old = new := by
  obtain ⟨rfl, rfl⟩ | ⟨rfl, rfl⟩ | ⟨rfl, rfl⟩ | ⟨rfl, rfl⟩ := h <;> rfl

/-- Settles O54: the op is a move of the host on an idle block, and it acts on the line it names. -/
theorem gpioOpsActOnOneLine : Obligations.GpioOpsActOnOneLine := by
  intro s op rest new old hb hf hop
  rw [← gpioLineOp_eq hop]
  refine ⟨?resetD, ?resetA, ?power⟩
  all_goals
    rintro h rfl
    exact step_of_hostMove hb hf h (by simp)

end Sys2Proof.Machine

namespace Sys2Proof.Machine

/-! ## Power-up, a strobe while busy, and the block's reset -/

/-- Settles O3: the power-up plant is empty and inside its bounds, and no request runs. -/
theorem resetSatisfiesTheInvariant : Obligations.ResetSatisfiesTheInvariant := by
  refine (inv_iff _).mpr ⟨⟨?cfgWf, ?memWf, ?txFits, ?rxFits, ?ctlClear, ?frameOk⟩, ?block⟩
  case cfgWf => decide
  case memWf => rfl
  case txFits => exact Nat.zero_le _
  case rxFits => exact Nat.zero_le _
  case ctlClear => rfl
  case frameOk => rintro f ⟨⟩
  case block => exact ⟨fun hw => absurd rfl hw, trivial, trivial, trivial⟩

/-- Settles O11: it is `exec_of_busy`. -/
theorem strobeWhileBusyHasNoEffect : Obligations.StrobeWhileBusyHasNoEffect :=
  fun i _ hb => exec_of_busy i hb

/-- A reset loads every register with its reset value, but for the three that R200 leaves unspecified. -/
theorem blockReset_block (s : State) :
    ∃ hdr resp src, (blockReset s).block = { Block.reset with hdr := hdr, resp := resp, wSrc := src } :=
  ⟨_, _, _, rfl⟩

@[simp] theorem blockReset_resets (s : State) : (blockReset s).env.resets = s.env.resets := rfl

/-- A reset that arrives while a request runs is the whole step (R200). -/
theorem step_of_reset_arriving {s : State} {later : List Nat} (hb : s.busy = true) (hr : s.env.resets = 0 :: later) :
    step s = .next (blockReset (setResets later s)) := by
  have htick : tick s = .next (blockReset (setResets later s)) := by unfold tick; rw [hr]
  rw [step, if_pos hb]
  exact resume_of_first_tick hb htick (by rintro t ⟨⟩; rfl)

/-- Settles O2: in both cases the step is `blockReset` of a state that differs from s in its inputs alone. -/
theorem resetAbandonsRequestWithoutStrobe : Obligations.ResetAbandonsRequestWithoutStrobe := by
  intro s rest later h
  obtain ⟨e, hstep, hresets⟩ : ∃ e, step s = .next (blockReset (s.withEnv e)) ∧ (s.busy = true → e.resets = later) := by
    rcases h with ⟨hb, hr⟩ | ⟨hb, hi, hf⟩
    · exact ⟨_, step_of_reset_arriving hb hr, fun _ => rfl⟩
    · exact ⟨_, step_of_hostMove hb hf hi (by simp), by simp [hb]⟩
  obtain ⟨hdr, resp, src, hblock⟩ := blockReset_block (s.withEnv e)
  refine ⟨_, hstep, ?_⟩
  simpa [hblock, Block.reset, Ctx.reset] using hresets

/-! ## A request on a peripheral that is not idle -/

/-- The peripheral is not as R216 asks before a request exactly when a frame runs or the TX FIFO holds words. -/
theorem periphSettled_eq_false_iff (p : Periph) : periphSettled p = false ↔ p.frame ≠ none ∨ p.tx ≠ [] := by
  rw [periphSettled, Bool.and_eq_false_iff, ← Bool.not_eq_true, ← Bool.not_eq_true, Option.isNone_iff_eq_none,
    List.isEmpty_iff]

/-- A request that moves bytes is accepted disturbed exactly when the peripheral is not idle (R216). -/
theorem accept_disturbed_iff {i : Instr} (hi : movesBytes i = true) (s : State) :
    (accept i.op i.buf i.size s).periph.disturbed = true ↔ s.periph.frame ≠ none ∨ s.periph.tx ≠ [] := by
  rw [accept_disturbed, decodeReq_fields, if_pos hi, Bool.not_eq_true', periphSettled_eq_false_iff]

/-- A CTL write never settles the peripheral. -/
theorem writeCtl_keeps_disturbed (v : Word) {s : State} (h : s.periph.disturbed = true) :
    (writeCtl v s).periph.disturbed = true := by
  unfold writeCtl writeCtlEffect
  split
  · split
    · rfl
    · exact h
  · split <;> exact h

/-- No access of the block settles the peripheral. -/
theorem Access.keeps_disturbed {s t : State} {es : List Event} (ha : Access s t es)
    (h : s.periph.disturbed = true) : t.periph.disturbed = true := by
  cases ha with
  | quiet hp hm => rw [hp]; exact h
  | ctlWritten v hp hm => rw [hp]; exact writeCtl_keeps_disturbed v h
  | txdWritten v hroom hp hm => rw [hp]; exact h
  | rxdRead w rest hrx hp hm => rw [hp]; exact h
  | stored a v ha hp hm => rw [hp]; exact h

/-- Every action makes at most one access, also that of a block that no request keeps busy. -/
theorem act_access {s t : State} (h : act s = .next t) : ∃ es, Access s t es := by
  by_cases hw : s.block.wte = .none
  · cases hb : s.busy with
    | true =>
      obtain ⟨es, -, -, ha⟩ := act_acts hb h
      exact ⟨es, ha⟩
    | false =>
      rw [act_eq_cflAct hw, cflAct, (State.busy_false_iff s).mp hb] at h
      cases h
      exact ⟨[], .quiet rfl rfl⟩
  · rw [act_eq_wteAct hw] at h
    obtain ⟨es, b, -, ha⟩ := wteAct_acts hw h
    exact ⟨es, ha.access⟩

/-- A peripheral disturbed before a tick is disturbed after it: a reset leaves it, and neither its own steps nor an
access settle it (R216). -/
theorem tick_keeps_disturbed {s t : State} (h : s.periph.disturbed = true) (ht : tick s = .next t) :
    t.periph.disturbed = true := by
  rcases tick_next ht with ⟨later, -, rfl⟩ | ⟨r, u, -, hu, ha⟩
  · exact h
  · have hdist : u.periph.disturbed = true := (breathe_periphOnly hu).disturbed.trans h
    obtain ⟨es, hacc⟩ := act_access ha
    exact hacc.keeps_disturbed hdist

/-- A request accepted before the peripheral is idle leaves it disturbed, whatever ends the request (R216). -/
theorem exec_leaves_disturbed {i : Instr} {s t : State} (hi : movesBytes i = true) (hb : s.busy = false)
    (hs : s.periph.frame ≠ none ∨ s.periph.tx ≠ []) (h : exec i s = .next t) : t.periph.disturbed = true := by
  rw [exec_of_idle i hb] at h
  exact runTicks_keeps (fun u => u.periph.disturbed = true) (fun _ _ hu _ ht => tick_keeps_disturbed hu ht)
    _ _ t ((accept_disturbed_iff hi s).mpr hs) h

/-- Both bytes of a disturbed exchange are fresh unknowns (R216). -/
theorem exchange_of_disturbed (b : Byte) {s : State} (h : s.periph.disturbed = true) :
    (exchange b s).1 = (Config.freeByte s.env.draws, Config.freeByte (s.env.draws + 1)) := by
  unfold exchange
  rw [if_pos h]; rfl

/-- An undisturbed exchange takes the first answer that the link partner has listed (R46). -/
theorem exchange_takes_answer (b : Byte) {s : State} (h : s.periph.disturbed = false) {x : Byte} {rest : List Byte}
    (hx : s.env.answers.items = x :: rest) : (exchange b s).1.2 = x := by
  simp [exchange, h, drawAnswer, Tape.draw, hx]

/-- Settles O58: acceptance disturbs the peripheral that is not idle, every tick keeps it so, and an exchange is free
exactly while it is. -/
theorem requestsOnAnUnsettledPeripheralHaveFreeLinkBytes :
    Obligations.RequestsOnAnUnsettledPeripheralHaveFreeLinkBytes := by
  refine ⟨fun i s hi => accept_disturbed_iff hi s, fun _ _ => tick_keeps_disturbed,
    fun _ _ _ => exec_leaves_disturbed, fun _ b => exchange_of_disturbed b, fun s b h => ⟨?_, ?_⟩⟩
  · obtain ⟨v, t, he, -⟩ := exchange_of_undisturbed b h
    rw [he]
  · intro x rest
    exact exchange_takes_answer b h

end Sys2Proof.Machine
